-- ==== Sys2Proof/Word.lean ====
section
/-! DEFINITION. The word types: registers and addresses are 32 bits wide (00_scope.md section 4, 20_memory.md R40). -/

namespace Sys2Proof

/-- A 32-bit register value, address or instruction word. -/
abbrev Word := BitVec 32

/-- The smallest addressable unit (20_memory.md R40: "address bytes"). -/
abbrev Byte := BitVec 8

end Sys2Proof
end

