-- ==== Sys2Proof/Machine/Bits.lean ====
section
/-! DEFINITION. Bits and fields in the manual's numbering (bit 0 is the most significant, 00_scope.md R4), and byte order. -/

namespace Sys2Proof.Machine

/-- `v[a]`: the manual's bit `a` of a word (R4). -/
def manualBit (v : Word) (a : Nat) : Bool := v.getLsbD (31 - a)

/-- `v[a : a + w - 1]`: the field of `w` bits whose most significant bit is the manual's bit `a` (R4). -/
def manualField (v : Word) (a w : Nat) : BitVec w := v.extractLsb' (32 - a - w) w

/-- The four bytes of a word, the most significant first. -/
def bigEndianBytes (w : Word) : List Byte :=
  [w.extractLsb' 24 8, w.extractLsb' 16 8, w.extractLsb' 8 8, w.extractLsb' 0 8]

/-- The word of four bytes, the most significant first. -/
def bigEndianWord (b0 b1 b2 b3 : Byte) : Word := b0 ++ b1 ++ b2 ++ b3

end Sys2Proof.Machine
end

