-- ==== Sys2Proof/Config.lean ====
section
/-! DEFINITION. What the spec leaves open: constants without a body, so that no proof can see their value. A statement about
one of them holds whatever it is. -/

namespace Sys2Proof.Config

/-- `IntMemBase`, the internal memory base address, constant during a run (00_scope.md section 4, D11; log 17). -/
opaque intMemBase : Word

/-- `ViolationPriority`: true if a fetch that is both guarded and refused by PP is reported as guarded, false if as
protected (60_exceptions.md R173, D2; log 11). -/
opaque violationPriorityIsGuarded : Bool

/-- `RelocGapFault`: the number of the core's exception for a fetch between two relocated entries (R174, D9; log 12). -/
opaque relocGapFault : BitVec 5

/-- `UserSprFault`: the number of the core's exception for a user-mode access to a module register (R141, D6; log 9). -/
opaque userSprFault : BitVec 5

/-- What the reserved positions in which a 1 was written read as, at draw `k` (10_state.md R28, U1; log 8). -/
opaque freeReserved (k : Nat) : Word

/-- The bits of SRR1 an exception leaves to the core, at draw `k` (60_exceptions.md R172, R178; log 10). -/
opaque freeSrr1 (k : Nat) : Word

/-- The core's privilege after an exception entry, at draw `k`: true for supervisor (R178; log 10). -/
opaque entrySupervisor (k : Nat) : Bool

/-- MSR[IR] after an exception entry, at draw `k` (R178; log 10). -/
opaque entryMsrIr (k : Nat) : Bool

/-- MSR[IP] after an exception entry, at draw `k` (R178; log 10). -/
opaque entryMsrIp (k : Nat) : Bool

/-- Whether the core operates little-endian after an exception entry, at draw `k` (R178; log 10). -/
opaque entryLittleEndian (k : Nat) : Bool

/-- How many register writes back the register values lie under which the core's fetch of draw `k` is handled
(43_spr_access.md R163, D12; log 22). -/
opaque fetchAhead (k : Nat) : Nat

/-- Whether the IMPU checks the debug port fetch of draw `k` (40_modes_of_operation.md R88, D25; log 20). -/
opaque debugFetchChecked (k : Nat) : Bool

/-- Whether the BBC relocates the debug port fetch of draw `k` (R88, D25; log 20). -/
opaque debugFetchRelocated (k : Nat) : Bool

/-- Whether a U-bus address that the spec does not name as internal memory lies in it, flash EEPROM or SRAM (20_memory.md R41,
R45, N33; log 21). -/
opaque internalMemory (a : Word) : Bool

end Sys2Proof.Config
end

