-- ==== Sys2Proof/Syntax.lean ====
section
/-! DEFINITION. The instructions: one constructor per row of spec/opcode_table.json, and the names of the ten registers. -/

namespace Sys2Proof

/-- The ten special-purpose registers of the module (10_state.md R12). -/
inductive SprName where
  | miRba0 | miRba1 | miRba2 | miRba3
  | miRa0 | miRa1 | miRa2 | miRa3
  | miGra | bbcmcr
deriving DecidableEq, Repr

/-- The 20 instructions that reach the module (30_encoding.md R62, R64). The operand is the number of the general
register of the core: the source rS of mtspr, the destination rD of mfspr (R63). -/
inductive Instr where
  | mtsprMiRba0 (rS : Nat)
  | mtsprMiRba1 (rS : Nat)
  | mtsprMiRba2 (rS : Nat)
  | mtsprMiRba3 (rS : Nat)
  | mtsprMiRa0 (rS : Nat)
  | mtsprMiRa1 (rS : Nat)
  | mtsprMiRa2 (rS : Nat)
  | mtsprMiRa3 (rS : Nat)
  | mtsprMiGra (rS : Nat)
  | mtsprBbcmcr (rS : Nat)
  | mfsprMiRba0 (rD : Nat)
  | mfsprMiRba1 (rD : Nat)
  | mfsprMiRba2 (rD : Nat)
  | mfsprMiRba3 (rD : Nat)
  | mfsprMiRa0 (rD : Nat)
  | mfsprMiRa1 (rD : Nat)
  | mfsprMiRa2 (rD : Nat)
  | mfsprMiRa3 (rD : Nat)
  | mfsprMiGra (rD : Nat)
  | mfsprBbcmcr (rD : Nat)
deriving DecidableEq, Repr

/-- The two directions of a register access (43_spr_access.md R140). -/
inductive Direction where
  | write
  | read
deriving DecidableEq, Repr

/-- `mtspr n, rS` by the register's name. -/
def Instr.mtspr : SprName → Nat → Instr
  | .miRba0, r => .mtsprMiRba0 r
  | .miRba1, r => .mtsprMiRba1 r
  | .miRba2, r => .mtsprMiRba2 r
  | .miRba3, r => .mtsprMiRba3 r
  | .miRa0, r => .mtsprMiRa0 r
  | .miRa1, r => .mtsprMiRa1 r
  | .miRa2, r => .mtsprMiRa2 r
  | .miRa3, r => .mtsprMiRa3 r
  | .miGra, r => .mtsprMiGra r
  | .bbcmcr, r => .mtsprBbcmcr r

/-- `mfspr rD, n` by the register's name. -/
def Instr.mfspr : SprName → Nat → Instr
  | .miRba0, r => .mfsprMiRba0 r
  | .miRba1, r => .mfsprMiRba1 r
  | .miRba2, r => .mfsprMiRba2 r
  | .miRba3, r => .mfsprMiRba3 r
  | .miRa0, r => .mfsprMiRa0 r
  | .miRa1, r => .mfsprMiRa1 r
  | .miRa2, r => .mfsprMiRa2 r
  | .miRa3, r => .mfsprMiRa3 r
  | .miGra, r => .mfsprMiGra r
  | .bbcmcr, r => .mfsprBbcmcr r

/-- An instruction's parts: its direction, the register it names, its general register. -/
def Instr.parts : Instr → Direction × SprName × Nat
  | .mtsprMiRba0 r => (.write, .miRba0, r)
  | .mtsprMiRba1 r => (.write, .miRba1, r)
  | .mtsprMiRba2 r => (.write, .miRba2, r)
  | .mtsprMiRba3 r => (.write, .miRba3, r)
  | .mtsprMiRa0 r => (.write, .miRa0, r)
  | .mtsprMiRa1 r => (.write, .miRa1, r)
  | .mtsprMiRa2 r => (.write, .miRa2, r)
  | .mtsprMiRa3 r => (.write, .miRa3, r)
  | .mtsprMiGra r => (.write, .miGra, r)
  | .mtsprBbcmcr r => (.write, .bbcmcr, r)
  | .mfsprMiRba0 r => (.read, .miRba0, r)
  | .mfsprMiRba1 r => (.read, .miRba1, r)
  | .mfsprMiRba2 r => (.read, .miRba2, r)
  | .mfsprMiRba3 r => (.read, .miRba3, r)
  | .mfsprMiRa0 r => (.read, .miRa0, r)
  | .mfsprMiRa1 r => (.read, .miRa1, r)
  | .mfsprMiRa2 r => (.read, .miRa2, r)
  | .mfsprMiRa3 r => (.read, .miRa3, r)
  | .mfsprMiGra r => (.read, .miGra, r)
  | .mfsprBbcmcr r => (.read, .bbcmcr, r)

/-- The general register an instruction names. -/
def Instr.gprNumber (i : Instr) : Nat := i.parts.2.2

end Sys2Proof
end

