-- ==== Sys2Proof/Machine/State.lean ====
section
/-! DEFINITION. The state: the module's registers and hidden state (10_state.md), the environment's side its rules name as
inputs, the inputs still to come, and the outputs of the latest step. All of it is plain data. -/

namespace Sys2Proof.Machine

/-- The two privilege levels (60_exceptions.md R180). -/
inductive Priv where
  | user
  | supervisor
deriving DecidableEq, Repr

/-- The ten registers of the module (10_state.md R12). -/
structure SprFile where
  miRba0 : Word
  miRba1 : Word
  miRba2 : Word
  miRba3 : Word
  miRa0 : Word
  miRa1 : Word
  miRa2 : Word
  miRa3 : Word
  miGra : Word
  bbcmcr : Word
deriving DecidableEq, Repr

/-- One fetch access as the module puts it on the U-bus (00_scope.md section 5, `UbusFetch`). -/
structure UbusFetch where
  addr : Word
  burst : Bool
  sc : Bool
  pt : Bool
  dp : Bool
  cancelled : Bool
deriving DecidableEq, Repr

/-- The operands of a Fetch event (00_scope.md section 5). -/
structure FetchRequest where
  ea : Word
  priv : Priv
  msrIr : Bool
  sc : Bool
  pt : Bool
  dp : Bool
deriving DecidableEq, Repr

/-- The kinds of `FetchError` (60_exceptions.md R170). -/
inductive FetchErrorKind where
  | guardedStorage
  | protectedStorage
  | relocGap
deriving DecidableEq, Repr

/-- What the module tells the core about a fetch it cancels: the kind, the number of the core's exception (its vector lies
at `number << 8` of the exception table, R121), and the four SRR1 bits where the spec gives them (R171, R172, R174). -/
structure FetchError where
  kind : FetchErrorKind
  number : BitVec 5
  srr1 : Option Word
deriving DecidableEq, Repr

/-- A U-bus access to the module as a slave: the address and the direction (40_modes_of_operation.md R86). -/
structure SlaveAccess where
  ubAddr : Word
  direction : Direction
deriving DecidableEq, Repr

/-- The outputs of one step. -/
structure Output where
  ubus : Option UbusFetch
  error : Option FetchError
  userSprFault : Bool
  slave : Option SlaveAccess
  data : Option Word
deriving DecidableEq, Repr

/-- The bits of the core's mode that the module's rules read (R44, R101, R121, R180). -/
structure Mode where
  priv : Priv
  msrIr : Bool
  msrIp : Bool
  littleEndian : Bool
deriving DecidableEq, Repr

/-- The core's side: the general registers x[i] (10_state.md R10), the address of the next fetch (R11), the mode, the
attributes of its fetches (R84, R88), and SRR1 (R29). Joining it to the module is the model's choice (log 1). -/
structure CoreSide where
  gpr : Vector Word 32
  pc : Word
  mode : Mode
  sc : Bool
  pt : Bool
  dp : Bool
  srr1 : Word
deriving DecidableEq, Repr

/-- What the world outside the module does next (00_scope.md section 5 for the first six; the others are the model's, log 26). -/
inductive Event where
  /-- One instruction fetch access issued by the core. -/
  | fetch (q : FetchRequest)
  /-- `mtspr n, rS` with `x[rS] = v`. -/
  | mtSpr (n : BitVec 10) (v : Word) (priv : Priv)
  /-- `mfspr rD, n`; the value is in `out.data`. -/
  | mfSpr (n : BitVec 10) (priv : Priv)
  /-- Reset, with bit ID[19] and the MSR[IP] bit of the reset configuration word (70_reset_and_hazards.md R193, R196). -/
  | reset (id19 msrIp : Bool)
  | standbyEnter
  | standbyExit
  /-- The core runs its next instruction. -/
  | coreCycle
  /-- The core's side changes by anything the spec does not describe: another instruction, a return from an exception. -/
  | coreChange (c : CoreSide)
  /-- The core discards the instructions it fetched ahead (43_spr_access.md R163). -/
  | coreDiscard
  /-- The byte at an address of the fetch address space becomes `b`. -/
  | memWrite (a : Word) (b : Byte)
  /-- The pending U-bus access at position `k` completes. -/
  | ubusComplete (k : Nat)
deriving DecidableEq, Repr

/-- The fetch address space: the bytes that are known, addresses strictly rising (20_memory.md R40; log 25). -/
abbrev Memory := List Host.Cell

/-- The state of the machine. -/
structure State where
  /-- The named fields of the ten registers, at their positions; 0 in the reserved positions (10_state.md R28). -/
  spr : SprFile
  /-- The reserved positions in which a 1 was written since reset (R28). -/
  reservedOnes : SprFile
  /-- The register values before earlier writes, the latest first, that fetch-ahead may still use (R163). -/
  stale : List SprFile
  /-- The U-bus accesses issued and not completed, the oldest first (R30). -/
  pending : List UbusFetch
  /-- Standby: the BBC's clocks are off (R89). -/
  clocksOff : Bool
  core : CoreSide
  mem : Memory
  /-- The events still to be handled, the next first (log 26). -/
  inputs : List Event
  /-- The outputs of the latest step. -/
  out : Output
  /-- The number of the next draw of a free value (log 30). -/
  ctr : Nat
deriving DecidableEq, Repr

/-- Why a step stops with a fault. -/
inductive Fault where
  /-- Raised by the core's fetch of an address between two relocated exception entries: the spec defines nothing after it
  (60_exceptions.md R174, U5). It carries the access that was delivered for its show cycle or program trace attribute, if any
  (R85). Safe. -/
  | relocGap (delivered : Option UbusFetch)
  /-- Raised by the core's fetch when the model knows no byte that answers at `addr` (log 25). Safe. -/
  | noAnswer (addr : Word)
deriving DecidableEq, Repr

/-- Why a step has no meaning. -/
inductive Refusal where
  /-- Raised by `exec`'s arm of an instruction without a meaning. Safe. -/
  | notModelled (mnemonic : String)
  /-- Raised by a term that is not well formed: its general register number does not fit the field. No decoded instruction
  raises it. Safe. -/
  | badRegister (r : Nat)
  /-- Raised by a fetch or a register access while the clocks are off: no such event occurs then (R89). Safe. -/
  | clocksOff
  /-- Raised by a checked fetch while an enabled region is ill-formed (41_impu_fetch_check.md R112, U3). Safe. -/
  | illFormedRegion
  /-- Raised by a register access with a number that is not one of the ten (43_spr_access.md R162, U10). Safe. -/
  | otherSpr (n : BitVec 10)
  /-- Raised by a fetched word that is not mtspr or mfspr (00_scope.md section 3: not in any source). Safe. -/
  | otherInstruction
  /-- Raised by a fetched mtspr or mfspr word with the reserved bit 31 set (30_encoding.md R63). Safe. -/
  | reservedBit
  /-- Raised by a fetch in little-endian operation with BE = 1 or from internal memory (20_memory.md R46, U8). Safe. -/
  | littleEndian
  /-- Raised by an exception the core takes while ETRE = 1 and MSR[IP] = 0 (42_exception_relocation.md R132, U7). Safe. -/
  | relocationNeedsIp
  /-- Raised by StandbyEnter with a U-bus access pending (U16). Safe. -/
  | pendingAtStandby
  /-- Raised by a completion of an access that is not pending. Safe. -/
  | noSuchAccess (k : Nat)
  /-- Raised by the core's cycle when its fetch goes to the debug port: what answers there is not described (R88). Safe. -/
  | debugPort
deriving DecidableEq, Repr

/-- The outcome of a step. -/
abbrev Result := Host.Outcome State Fault Refusal

/-- No output. -/
def Output.none : Output :=
  { ubus := .none, error := .none, userSprFault := false, slave := .none, data := .none }

/-- Ten registers that hold 0. -/
def SprFile.zero : SprFile :=
  { miRba0 := 0, miRba1 := 0, miRba2 := 0, miRba3 := 0, miRa0 := 0, miRa1 := 0, miRa2 := 0, miRa3 := 0, miGra := 0, bbcmcr := 0 }

/-- The machine right after power-on and `Reset` with ID[19] = 0 and MSR[IP] = 0 (70_reset_and_hazards.md R196; log 5): MI_GRA
and BBCMCR are 0 (R22, R27), nothing is pending and the clocks are on (R190, R196), the core starts at the system reset vector
(R195) as supervisor with MSR[IR] = 0 (R191, log 6). The eight region registers, which reset does not set, are named 0 (log 4). -/
def State.reset : State :=
  { spr := SprFile.zero
    reservedOnes := SprFile.zero
    stale := []
    pending := []
    clocksOff := false
    core :=
      { gpr := Vector.replicate 32 0
        pc := 0x00000100
        mode := { priv := .supervisor, msrIr := false, msrIp := false, littleEndian := false }
        sc := false
        pt := false
        dp := false
        srr1 := 0 }
    mem := []
    inputs := []
    out := Output.none
    ctr := 0 }

end Sys2Proof.Machine
end

