-- ==== Sys2Proof/Machine/Flags.lean ====
section
/-! DEFINITION. The only status flags of the spec: bits 1, 3, 4 and 10 of the core's SRR1 (10_state.md R29, 60_exceptions.md
R172). The module has no flag register of its own. -/

namespace Sys2Proof.Machine

/-- The IMPU's decision on a fetch (41_impu_fetch_check.md R113). -/
inductive Verdict where
  | allowed
  | guardedStorage
  | protectedStorage
deriving DecidableEq, Repr

/-- The four SRR1 bits the IMPU drives: 1, 3, 4 and 10 (R172). -/
def srr1Mask : Word := 0x58200000

/-- SRR1 bit 3: guarded storage (R172). -/
def srr1Guarded : Word := 0x10000000

/-- SRR1 bit 4: protected storage (R172). -/
def srr1Protected : Word := 0x08000000

/-- The exception number of the IMPU's event: its vector is 0xnnn0_1300 (R171). -/
def impuExceptionNumber : BitVec 5 := 0x13

/-- What the module reports for each kind of error: for the IMPU's two, vector number 0x13 and one SRR1 bit (R171, R172); for
a relocation gap the parameter `RelocGapFault` and no status (R174). -/
def fetchErrorOf : FetchErrorKind → FetchError
  | .guardedStorage => { kind := .guardedStorage, number := impuExceptionNumber, srr1 := some srr1Guarded }
  | .protectedStorage => { kind := .protectedStorage, number := impuExceptionNumber, srr1 := some srr1Protected }
  | .relocGap => { kind := .relocGap, number := Config.relocGapFault, srr1 := none }

/-- SRR1 after an exception with draw `k`: the four driven bits where the exception gives them, every other bit the core's
business and so free (R172, R178; log 10). -/
def srr1After (status : Option Word) (k : Nat) : Word :=
  match status with
  | some bits => (Config.freeSrr1 k &&& ~~~ srr1Mask) ||| bits
  | none => Config.freeSrr1 k

end Sys2Proof.Machine
end

