-- ==== Sys2Proof/Machine/SprMap.lean ====
section
/-! DEFINITION. The registers' numbers, U-bus addresses and layouts (10_state.md sections 3 to 7, 30_encoding.md sections 1, 2). -/

namespace Sys2Proof.Machine

/-- The SPR number of a register, 10 bits (30_encoding.md R60). -/
def sprNumber : SprName → BitVec 10
  | .miRba0 => 784
  | .miRba1 => 785
  | .miRba2 => 786
  | .miRba3 => 787
  | .miRa0 => 816
  | .miRa1 => 817
  | .miRa2 => 818
  | .miRa3 => 819
  | .miGra => 528
  | .bbcmcr => 560

/-- All ten registers. -/
def allSprs : List SprName :=
  [.miRba0, .miRba1, .miRba2, .miRba3, .miRa0, .miRa1, .miRa2, .miRa3, .miGra, .bbcmcr]

/-- The register an SPR number addresses; none for every other number (R60, R66 (c), R162). -/
def sprOfNumber (n : BitVec 10) : Option SprName := allSprs.find? fun r => sprNumber r == n

/-- MI_RBAx, the base address register of region x (10_state.md R13). -/
def regionBaseSpr : Fin 4 → SprName
  | 0 => .miRba0
  | 1 => .miRba1
  | 2 => .miRba2
  | 3 => .miRba3

/-- MI_RAx, the attribute register of region x (R15). -/
def regionAttrSpr : Fin 4 → SprName
  | 0 => .miRa0
  | 1 => .miRa1
  | 2 => .miRa2
  | 3 => .miRa3

/-- A 10-bit SPR number with its two 5-bit halves swapped, `n[5:9] || n[0:4]` (R61, R63). The swap is its own inverse. -/
def swapHalves (n : BitVec 10) : BitVec 10 := n.extractLsb' 0 5 ++ n.extractLsb' 5 5

/-- The address at which the module answers on the U-bus for an SPR number: the swapped number in bits 18:27, all other
bits 0 (R61). -/
def ubAddr (n : BitVec 10) : Word := (swapHalves n).zeroExtend 32 <<< 4

/-- The mask of PP, bits 20:21 of MI_RAx and MI_GRA (10_state.md R15, R20). -/
def maskPp : Word := 0x00000C00

/-- The mask of G, bit 25 of MI_RAx and MI_GRA (R15, R20). -/
def maskG : Word := 0x00000040

/-- The positions of a register's named fields; every other position is reserved (R13, R15, R20, R23). -/
def namedMask : SprName → Word
  | .miRba0 | .miRba1 | .miRba2 | .miRba3 => 0xFFFFF000
  | .miRa0 | .miRa1 | .miRa2 | .miRa3 => 0xFFFFF000 ||| maskPp ||| maskG
  | .miGra => 0xF0000000 ||| maskPp ||| maskG
  | .bbcmcr => 0x00003800

/-- The positions of a register's reserved bits (10_state.md section 7). -/
def reservedMask (r : SprName) : Word := ~~~ namedMask r

end Sys2Proof.Machine
end

