-- ==== Sys2Proof/Machine/Operands.lean ====
section
/-! DEFINITION. The operands: the core's general registers, the module's registers, and the fields of each register. -/

namespace Sys2Proof.Machine

/-- `x[r]`; none where there is no such register. -/
def readGpr (c : CoreSide) (r : Nat) : Option Word := c.gpr[r]?

/-- `x[r] <- v`. A number without a register writes nothing (no meaning calls it so). -/
def writeGpr (c : CoreSide) (r : Nat) (v : Word) : CoreSide := { c with gpr := c.gpr.setIfInBounds r v }

/-- `spr[r]`, the stored value of a module register. -/
def SprFile.get (f : SprFile) : SprName → Word
  | .miRba0 => f.miRba0
  | .miRba1 => f.miRba1
  | .miRba2 => f.miRba2
  | .miRba3 => f.miRba3
  | .miRa0 => f.miRa0
  | .miRa1 => f.miRa1
  | .miRa2 => f.miRa2
  | .miRa3 => f.miRa3
  | .miGra => f.miGra
  | .bbcmcr => f.bbcmcr

/-- The register file with one register replaced. -/
def SprFile.set (f : SprFile) (r : SprName) (v : Word) : SprFile :=
  match r with
  | .miRba0 => { f with miRba0 := v }
  | .miRba1 => { f with miRba1 := v }
  | .miRba2 => { f with miRba2 := v }
  | .miRba3 => { f with miRba3 := v }
  | .miRa0 => { f with miRa0 := v }
  | .miRa1 => { f with miRa1 := v }
  | .miRa2 => { f with miRa2 := v }
  | .miRa3 => { f with miRa3 := v }
  | .miGra => { f with miGra := v }
  | .bbcmcr => { f with bbcmcr := v }

/-- MI_RBAx of region x (10_state.md R13). -/
def SprFile.rba (f : SprFile) : Fin 4 → Word
  | 0 => f.miRba0
  | 1 => f.miRba1
  | 2 => f.miRba2
  | 3 => f.miRba3

/-- MI_RAx of region x (R15). -/
def SprFile.ra (f : SprFile) : Fin 4 → Word
  | 0 => f.miRa0
  | 1 => f.miRa1
  | 2 => f.miRa2
  | 3 => f.miRa3

/-- RA, bits 0:19 of MI_RBAx (R13). -/
def fieldRa (rba : Word) : BitVec 20 := manualField rba 0 20

/-- RS, bits 0:19 of MI_RAx (R15). -/
def fieldRs (ra : Word) : BitVec 20 := manualField ra 0 20

/-- PP, bits 20:21 of MI_RAx and of MI_GRA (R15, R20). -/
def fieldPp (v : Word) : BitVec 2 := manualField v 20 2

/-- G, bit 25 of MI_RAx and of MI_GRA (R15, R20). -/
def fieldG (v : Word) : Bool := manualBit v 25

/-- ENRx, bit x of MI_GRA (R20). -/
def fieldEnr (gra : Word) (x : Fin 4) : Bool := manualBit gra x.val

/-- BE, bit 18 of BBCMCR (R24). -/
def fieldBe (bbcmcr : Word) : Bool := manualBit bbcmcr 18

/-- ETRE, bit 19 of BBCMCR (R25). -/
def fieldEtre (bbcmcr : Word) : Bool := manualBit bbcmcr 19

/-- OERC, bit 20 of BBCMCR (R26). -/
def fieldOerc (bbcmcr : Word) : Bool := manualBit bbcmcr 20

/-- The attributes of a fetch that one region, or the global region, gives: PP and G (R17, R18, R21). -/
structure RegionAttrs where
  pp : BitVec 2
  g : Bool
deriving DecidableEq, Repr

/-- The attributes in MI_RAx or MI_GRA. -/
def attrsOf (v : Word) : RegionAttrs := { pp := fieldPp v, g := fieldG v }

end Sys2Proof.Machine
end

