-- ==== Sys2Proof/Machine/Ops.lean ====
section
/-! DEFINITION. The shared operations: memory, taking an exception, reset of the core's side. There is no return from an
exception in the spec (60_exceptions.md R179); the event `coreChange` stands for whatever the core does there (log 10). -/

namespace Sys2Proof.Machine

/-- The canonical form of memory: addresses below 2^32, strictly rising. An unlisted byte has no value (log 25). -/
def Memory.wf : Memory → Bool
  | [] => true
  | [(a, _)] => decide (a < 2 ^ 32)
  | (a, _) :: (b, y) :: rest => decide (a < b) && Memory.wf ((b, y) :: rest)

/-- The byte at an address; none where the model knows none. -/
def Memory.read : Memory → Nat → Option Byte
  | [], _ => none
  | (a, x) :: rest, k => if k = a then some x else Memory.read rest k

/-- Memory with one byte replaced or added, in its place. -/
def Memory.write : Memory → Nat → Byte → Memory
  | [], k, y => [(k, y)]
  | (a, x) :: rest, k, y =>
    if k < a then (k, y) :: (a, x) :: rest
    else if k = a then (k, y) :: rest
    else (a, x) :: Memory.write rest k y

/-- The key of byte `k` of an access at `a`: addresses wrap at 2^32 (20_memory.md R40; log 34). -/
def byteKey (a : Word) (k : Nat) : Nat := (a + BitVec.ofNat 32 k).toNat

/-- The four bytes at an address, the lowest first. -/
def readBytes (m : Memory) (a : Word) : Option (List Byte) :=
  match m.read (byteKey a 0), m.read (byteKey a 1), m.read (byteKey a 2), m.read (byteKey a 3) with
  | some b0, some b1, some b2, some b3 => some [b0, b1, b2, b3]
  | _, _, _, _ => none

/-- Bytes stored one after another from byte `k` of an access at `a`. -/
def writeBytesFrom (m : Memory) (a : Word) : Nat → List Byte → Memory
  | _, [] => m
  | k, b :: rest => writeBytesFrom (m.write (byteKey a k) b) a (k + 1) rest

/-- Bytes in the order the core reads them: in little-endian operation the lowest byte of a word is the least significant
(PRESUMED, log 21). -/
def instructionBytes (littleEndian : Bool) (bytes : List Byte) : List Byte :=
  if littleEndian then bytes.reverse else bytes

/-- The vector of exception number `i`: the prefix 0xFFF or 0x000 by MSR[IP], then `i << 8` (42_exception_relocation.md R121). -/
def vectorAddr (msrIp : Bool) (i : BitVec 5) : Word :=
  (if msrIp then 0xFFF00000 else 0) ||| (i.zeroExtend 32 <<< 8)

/-- The core's mode after an exception entry, draw `k`: the spec does not say what the MSR becomes (60_exceptions.md R178), so
every bit of it is free (log 10). -/
def entryMode (k : Nat) : Mode :=
  { priv := if Config.entrySupervisor k then .supervisor else .user
    msrIr := Config.entryMsrIr k
    msrIp := Config.entryMsrIp k
    littleEndian := Config.entryLittleEndian k }

/-- TAKING AN EXCEPTION, all that the spec settles of it (60_exceptions.md R171, R172, R178): the core goes to the vector of
exception `i`, the IMPU's four SRR1 bits hold the status, the rest of SRR1 and the MSR are the core's and free. With ETRE = 1
and MSR[IP] = 0 it is refused (42_exception_relocation.md R132, U7). DESIGN CHOICE (unsafe, log 10): the core's fetch attributes
(show cycle, program trace, debug port) and its general registers stay, of which R178 says nothing. -/
def takeException (i : BitVec 5) (status : Option Word) (s : State) : Result :=
  if fieldEtre s.spr.bbcmcr && !s.core.mode.msrIp then .refused .relocationNeedsIp
  else
    .next
      { s with
        core :=
          { s.core with
            pc := vectorAddr s.core.mode.msrIp i
            mode := entryMode s.ctr
            srr1 := srr1After status s.ctr }
        ctr := s.ctr + 1 }

/-- The core goes on with the next instruction, 4 bytes further (30_encoding.md R63; PRESUMED, log 1). -/
def advancePc (s : State) : State := { s with core := { s.core with pc := s.core.pc + 4 } }

/-- The core's side after reset: at the system reset vector, exception number 1 (70_reset_and_hazards.md R195), supervisor,
MSR[IR] = 0 (R191), MSR[IP] from the reset configuration word (R193). The rest the spec does not mention and stays (log 7). -/
def resetCore (msrIp : Bool) (c : CoreSide) : CoreSide :=
  { c with
    pc := vectorAddr msrIp 1
    mode := { priv := .supervisor, msrIr := false, msrIp := msrIp, littleEndian := false } }

/-- The Reset event (70_reset_and_hazards.md R196): MI_GRA becomes 0, BBCMCR becomes `id19 << 12`, the eight region registers
stay, nothing is pending, the clocks are on. No write since this reset has put a 1 in a reserved position of any register, so
every one of them reads 0 there again (10_state.md R28; log 8). -/
def resetModule (id19 msrIp : Bool) (s : State) : State :=
  { s with
    spr := { s.spr with miGra := 0, bbcmcr := (BitVec.ofBool id19).zeroExtend 32 <<< 12 }
    reservedOnes := SprFile.zero
    stale := []
    pending := []
    clocksOff := false
    core := resetCore msrIp s.core }

end Sys2Proof.Machine
end

