-- ==== Sys2Proof/Machine/SprAccess.lean ====
section
/-! DEFINITION. Register access: the MtSpr and MfSpr events and the two shared operations over which the 20 instructions are
defined (43_spr_access.md R140, R141, R162, R163; 40_modes_of_operation.md R86, R89). -/

namespace Sys2Proof.Machine

/-- What an access to a module register comes to. -/
inductive Access where
  | done (s : State)
  | userSprFault
  | refused (r : Refusal)

/-- The slave access a register access makes on the U-bus: the register's `ub_addr` (R86, 30_encoding.md R61). -/
def slaveAccess (n : SprName) (d : Direction) : SlaveAccess := { ubAddr := ubAddr (sprNumber n), direction := d }

/-- `spr[n] <- v`: the named fields take the bits of `v`; a 1 in a reserved position is remembered (10_state.md R28). The
earlier register values stay possible for fetches already issued (R163). -/
def storeSpr (n : SprName) (v : Word) (s : State) : State :=
  { s with
    spr := s.spr.set n (v &&& namedMask n)
    reservedOnes := s.reservedOnes.set n (s.reservedOnes.get n ||| (v &&& reservedMask n))
    stale := s.spr :: s.stale
    out := { s.out with slave := some (slaveAccess n .write) } }

/-- What a read of register `n` returns: the named fields, 0 in a reserved position in which no 1 was written, a free bit in
one where a 1 was (10_state.md R28, U1; log 8). -/
def sprValue (n : SprName) (s : State) : Word :=
  s.spr.get n ||| (Config.freeReserved s.ctr &&& s.reservedOnes.get n)

/-- A read of register `n`: no state of the module changes (43_spr_access.md section 3); the draw of the free bits is used up. -/
def loadSpr (n : SprName) (s : State) : State :=
  { s with
    out := { s.out with slave := some (slaveAccess n .read), data := some (sprValue n s) }
    ctr := s.ctr + 1 }

/-- An access to register `n` by a privilege level: none while the clocks are off (R89); in user mode UserSprFault, and no
state of the module changes (R141). -/
def accessSpr (priv : Priv) (s done : State) : Access :=
  if s.clocksOff then .refused .clocksOff
  else
    match priv with
    | .user => .userSprFault
    | .supervisor => .done done

/-- The core's exception for a user-mode access: the vector of `UserSprFault`, no status given (R141; log 9). -/
def takeUserSprFault (s : State) : Result :=
  takeException Config.userSprFault none { s with out := { s.out with userSprFault := true } }

/-- `mtspr n, rS`. -/
def mtsprOp (n : SprName) (rS : Nat) (s : State) : Result :=
  match readGpr s.core rS with
  | none => .refused (.badRegister rS)
  | some v =>
    match accessSpr s.core.mode.priv s (storeSpr n v s) with
    | .done t => .next (advancePc t)
    | .userSprFault => takeUserSprFault s
    | .refused r => .refused r

/-- `mfspr rD, n`. -/
def mfsprOp (n : SprName) (rD : Nat) (s : State) : Result :=
  match readGpr s.core rD with
  | none => .refused (.badRegister rD)
  | some _ =>
    match accessSpr s.core.mode.priv s (loadSpr n s) with
    | .done t => .next (advancePc { t with core := writeGpr t.core rD (sprValue n s) })
    | .userSprFault => takeUserSprFault s
    | .refused r => .refused r

/-- An access as an event: the module reports UserSprFault and keeps its state (R141). -/
def accessEvent (a : Access) (s : State) : Result :=
  match a with
  | .done t => .next t
  | .userSprFault => .next { s with out := { s.out with userSprFault := true } }
  | .refused r => .refused r

/-- The MtSpr event; any number but the ten is refused (R162). -/
def handleMtSpr (n : BitVec 10) (v : Word) (priv : Priv) (s : State) : Result :=
  match sprOfNumber n with
  | none => .refused (.otherSpr n)
  | some r => accessEvent (accessSpr priv s (storeSpr r v s)) s

/-- The MfSpr event; any number but the ten is refused (R162). -/
def handleMfSpr (n : BitVec 10) (priv : Priv) (s : State) : Result :=
  match sprOfNumber n with
  | none => .refused (.otherSpr n)
  | some r => accessEvent (accessSpr priv s (loadSpr r s)) s

end Sys2Proof.Machine
end

