-- ==== Sys2Proof/Machine/Mfspr.lean ====
section
/-! DEFINITION. The ten mfspr instructions, one definition for each (43_spr_access.md section 3). -/

namespace Sys2Proof.Machine

/-- mfspr MI_RBA0 (R152): bits 0:19 are RA of x[rD]. -/
def execMfsprMiRba0 (rD : Nat) (s : State) : Result := mfsprOp .miRba0 rD s

/-- mfspr MI_RBA1 (R153): bits 0:19 are RA of x[rD]. -/
def execMfsprMiRba1 (rD : Nat) (s : State) : Result := mfsprOp .miRba1 rD s

/-- mfspr MI_RBA2 (R154): bits 0:19 are RA of x[rD]. -/
def execMfsprMiRba2 (rD : Nat) (s : State) : Result := mfsprOp .miRba2 rD s

/-- mfspr MI_RBA3 (R155): bits 0:19 are RA of x[rD]. -/
def execMfsprMiRba3 (rD : Nat) (s : State) : Result := mfsprOp .miRba3 rD s

/-- mfspr MI_RA0 (R156): bits 0:19 are RS, 20:21 PP, 25 G of x[rD]. -/
def execMfsprMiRa0 (rD : Nat) (s : State) : Result := mfsprOp .miRa0 rD s

/-- mfspr MI_RA1 (R157): bits 0:19 are RS, 20:21 PP, 25 G of x[rD]. -/
def execMfsprMiRa1 (rD : Nat) (s : State) : Result := mfsprOp .miRa1 rD s

/-- mfspr MI_RA2 (R158): bits 0:19 are RS, 20:21 PP, 25 G of x[rD]. -/
def execMfsprMiRa2 (rD : Nat) (s : State) : Result := mfsprOp .miRa2 rD s

/-- mfspr MI_RA3 (R159): bits 0:19 are RS, 20:21 PP, 25 G of x[rD]. -/
def execMfsprMiRa3 (rD : Nat) (s : State) : Result := mfsprOp .miRa3 rD s

/-- mfspr MI_GRA (R160): bits 0 to 3 are ENR0 to ENR3, 20:21 PP, 25 G of x[rD]. -/
def execMfsprMiGra (rD : Nat) (s : State) : Result := mfsprOp .miGra rD s

/-- mfspr BBCMCR (R161): bit 18 is BE, 19 ETRE, 20 OERC of x[rD]. -/
def execMfsprBbcmcr (rD : Nat) (s : State) : Result := mfsprOp .bbcmcr rD s

end Sys2Proof.Machine
end

