-- ==== Sys2Proof/Machine/Mtspr.lean ====
section
/-! DEFINITION. The ten mtspr instructions, one definition for each (43_spr_access.md section 2). -/

namespace Sys2Proof.Machine

/-- mtspr MI_RBA0 (R142): RA <- v[0:19]. -/
def execMtsprMiRba0 (rS : Nat) (s : State) : Result := mtsprOp .miRba0 rS s

/-- mtspr MI_RBA1 (R143): RA <- v[0:19]. -/
def execMtsprMiRba1 (rS : Nat) (s : State) : Result := mtsprOp .miRba1 rS s

/-- mtspr MI_RBA2 (R144): RA <- v[0:19]. -/
def execMtsprMiRba2 (rS : Nat) (s : State) : Result := mtsprOp .miRba2 rS s

/-- mtspr MI_RBA3 (R145): RA <- v[0:19]. -/
def execMtsprMiRba3 (rS : Nat) (s : State) : Result := mtsprOp .miRba3 rS s

/-- mtspr MI_RA0 (R146): RS <- v[0:19], PP <- v[20:21], G <- v[25]. -/
def execMtsprMiRa0 (rS : Nat) (s : State) : Result := mtsprOp .miRa0 rS s

/-- mtspr MI_RA1 (R147): RS <- v[0:19], PP <- v[20:21], G <- v[25]. -/
def execMtsprMiRa1 (rS : Nat) (s : State) : Result := mtsprOp .miRa1 rS s

/-- mtspr MI_RA2 (R148): RS <- v[0:19], PP <- v[20:21], G <- v[25]. -/
def execMtsprMiRa2 (rS : Nat) (s : State) : Result := mtsprOp .miRa2 rS s

/-- mtspr MI_RA3 (R149): RS <- v[0:19], PP <- v[20:21], G <- v[25]. -/
def execMtsprMiRa3 (rS : Nat) (s : State) : Result := mtsprOp .miRa3 rS s

/-- mtspr MI_GRA (R150): ENR0..ENR3 <- v[0..3], PP <- v[20:21], G <- v[25]. -/
def execMtsprMiGra (rS : Nat) (s : State) : Result := mtsprOp .miGra rS s

/-- mtspr BBCMCR (R151): BE <- v[18], ETRE <- v[19], OERC <- v[20]. -/
def execMtsprBbcmcr (rS : Nat) (s : State) : Result := mtsprOp .bbcmcr rS s

end Sys2Proof.Machine
end

