-- ==== Sys2Proof/Machine/Dispatch.lean ====
section
/-! DEFINITION. The one dispatch from instructions to their meanings. -/

namespace Sys2Proof.Machine

def exec (i : Instr) (s : State) : Host.Outcome State Fault Refusal :=
  match i with
  | .mtsprMiRba0 rS => Sys2Proof.Machine.execMtsprMiRba0 rS s
  | .mtsprMiRba1 rS => Sys2Proof.Machine.execMtsprMiRba1 rS s
  | .mtsprMiRba2 rS => Sys2Proof.Machine.execMtsprMiRba2 rS s
  | .mtsprMiRba3 rS => Sys2Proof.Machine.execMtsprMiRba3 rS s
  | .mtsprMiRa0 rS => Sys2Proof.Machine.execMtsprMiRa0 rS s
  | .mtsprMiRa1 rS => Sys2Proof.Machine.execMtsprMiRa1 rS s
  | .mtsprMiRa2 rS => Sys2Proof.Machine.execMtsprMiRa2 rS s
  | .mtsprMiRa3 rS => Sys2Proof.Machine.execMtsprMiRa3 rS s
  | .mtsprMiGra rS => Sys2Proof.Machine.execMtsprMiGra rS s
  | .mtsprBbcmcr rS => Sys2Proof.Machine.execMtsprBbcmcr rS s
  | .mfsprMiRba0 rD => Sys2Proof.Machine.execMfsprMiRba0 rD s
  | .mfsprMiRba1 rD => Sys2Proof.Machine.execMfsprMiRba1 rD s
  | .mfsprMiRba2 rD => Sys2Proof.Machine.execMfsprMiRba2 rD s
  | .mfsprMiRba3 rD => Sys2Proof.Machine.execMfsprMiRba3 rD s
  | .mfsprMiRa0 rD => Sys2Proof.Machine.execMfsprMiRa0 rD s
  | .mfsprMiRa1 rD => Sys2Proof.Machine.execMfsprMiRa1 rD s
  | .mfsprMiRa2 rD => Sys2Proof.Machine.execMfsprMiRa2 rD s
  | .mfsprMiRa3 rD => Sys2Proof.Machine.execMfsprMiRa3 rD s
  | .mfsprMiGra rD => Sys2Proof.Machine.execMfsprMiGra rD s
  | .mfsprBbcmcr rD => Sys2Proof.Machine.execMfsprBbcmcr rD s

end Sys2Proof.Machine
end

