-- ==== Sys2Proof/WellFormed.lean ====
section
/-! DEFINITION. Which instruction terms stand for an instruction word: the register field is 5 bits (30_encoding.md R63). -/

namespace Sys2Proof

/-- How many general registers the 5-bit register field can name (R63; PRESUMED, log 1). -/
def numGprs : Nat := 32

/-- The one check on an instruction term: its general register number fits the 5-bit field (R63). -/
def Instr.wf (i : Instr) : Bool := decide (i.gprNumber < numGprs)

end Sys2Proof
end

