-- ==== Sys2Proof/Decode.lean ====
section
/-! DEFINITION. The decoder from instruction words to instructions, total, rejecting by name, and the encoder; both from
30_encoding.md R60, R63 (the bit layout is GK2: PRESUMED, log 2). -/

namespace Sys2Proof

open Machine

/-- Why bytes are no instruction of the table. -/
inductive DecodeError where
  /-- Fewer than four bytes. -/
  | truncated
  /-- Primary opcode not 31, or extended opcode neither 467 nor 339: an instruction of the core outside the spec. -/
  | otherInstruction
  /-- mtspr or mfspr with bit 31, "0 (reserved)", set. -/
  | reservedBit
  /-- mtspr or mfspr with an SPR number that is not one of the ten (R66 (c), R162). -/
  | otherSpr (n : BitVec 10)
deriving DecidableEq, Repr

/-- The primary opcode of both instructions, bits 0:5 (R63). -/
def primaryOpcode : BitVec 6 := 31

/-- The extended opcode of a direction, bits 21:30: 467 for mtspr, 339 for mfspr (R63). -/
def extendedOpcode : Direction → BitVec 10
  | .write => 467
  | .read => 339

/-- The direction an extended opcode stands for. -/
def directionOf (xo : BitVec 10) : Option Direction :=
  if xo = extendedOpcode .write then some .write
  else if xo = extendedOpcode .read then some .read
  else none

/-- The instruction of a direction, a register and a general register. -/
def Instr.ofParts : Direction → SprName → Nat → Instr
  | .write, n, r => Instr.mtspr n r
  | .read, n, r => Instr.mfspr n r

/-- The instruction a 32-bit word stands for (R63, R68), or why it stands for none. -/
def decodeWord (w : Word) : Except DecodeError Instr :=
  if manualField w 0 6 ≠ primaryOpcode then .error .otherInstruction
  else
    match directionOf (manualField w 21 10) with
    | none => .error .otherInstruction
    | some d =>
      if manualBit w 31 then .error .reservedBit
      else
        let n := swapHalves (manualField w 11 10)
        match sprOfNumber n with
        | none => .error (.otherSpr n)
        | some r => .ok (Instr.ofParts d r (manualField w 6 5).toNat)

/-- The decoder on bytes: an instruction is four bytes, the most significant first (PRESUMED, log 3). It answers the
instruction and the bytes that follow it. -/
def decodeBytes : List Byte → Except DecodeError (Instr × List Byte)
  | b0 :: b1 :: b2 :: b3 :: rest =>
    match decodeWord (bigEndianWord b0 b1 b2 b3) with
    | .ok i => .ok (i, rest)
    | .error e => .error e
  | _ => .error .truncated

/-- The word of an instruction: opcode 31, the register field, the SPR field, the extended opcode, bit 31 = 0 (R63). -/
def encode (i : Instr) : Word :=
  match i.parts with
  | (d, n, r) =>
    primaryOpcode ++ BitVec.ofNat 5 r ++ swapHalves (sprNumber n) ++ extendedOpcode d ++ (0 : BitVec 1)

/-- The bytes of an instruction as they lie in memory (log 3). -/
def encodeBytes (i : Instr) : List Byte := bigEndianBytes (encode i)

/-- What the decoder reads from an instruction whose `nbits` table bits are `w` and whose further bits are 0. Every
instruction is one 32-bit word, stored most significant byte first. -/
def decodeTableWord (nbits w : Nat) : Option Instr :=
  match decodeBytes (bigEndianBytes (BitVec.ofNat 32 (w % 2 ^ nbits))) with
  | .ok (i, _) => some i
  | .error _ => none

end Sys2Proof
end

