-- ==== Sys2Proof/Machine/Impu.lean ====
section
/-! DEFINITION. The IMPU check of a fetch (41_impu_fetch_check.md). It reads registers and changes nothing. -/

namespace Sys2Proof.Machine

/-- The four programmable regions, the lowest index first (R100). -/
def regions : List (Fin 4) := [0, 1, 2, 3]

/-- The size in bytes of a region with a legal RS (10_state.md R16). -/
def regionSize (rs : BitVec 20) : Nat := (rs.toNat + 1) * 4096

/-- The first address of region x, `RA || 0x000` (R13). -/
def regionBase (f : SprFile) (x : Fin 4) : Word := fieldRa (f.rba x) ++ (0 : BitVec 12)

/-- RS is one of the 21 legal values `2^k - 1` (10_state.md R16). -/
def legalRs (rs : BitVec 20) : Bool := (rs + 1) &&& rs == 0

/-- Region x is programmed as the spec requires: a legal size, and a base on the size boundary (R103, R113, R200). -/
def wellFormedRegion (f : SprFile) (x : Fin 4) : Bool :=
  legalRs (fieldRs (f.ra x)) && (fieldRa (f.rba x) &&& fieldRs (f.ra x) == 0)

/-- Region x is on (R102). -/
def regionOn (f : SprFile) (x : Fin 4) : Bool := fieldEnr f.miGra x

/-- `match(x, ea)`: only the 20 most significant address bits take part (R103). -/
def regionMatches (f : SprFile) (x : Fin 4) (ea : Word) : Bool :=
  manualField ea 0 20 &&& ~~~ fieldRs (f.ra x) == fieldRa (f.rba x)

/-- The enabled matching region of the lowest index; none if the global region applies (R105, R106). -/
def chosenRegion (f : SprFile) (ea : Word) : Option (Fin 4) :=
  regions.find? fun x => regionOn f x && regionMatches f x ea

/-- The attributes the check uses: the chosen region's, else MI_GRA's (R105, R106). -/
def fetchAttrs (f : SprFile) (ea : Word) : RegionAttrs :=
  match chosenRegion f ea with
  | some x => attrsOf (f.ra x)
  | none => attrsOf f.miGra

/-- PP refuses the fetch: 00 everybody, 01 the user (R107). -/
def ppRefuses (pp : BitVec 2) (priv : Priv) : Bool := pp == 0 || (pp == 1 && priv == .user)

/-- The verdict of a region's attributes. With both reasons one of the two is reported, by the parameter
`ViolationPriority` (R107, R108, R173; log 11). -/
def attrsVerdict (a : RegionAttrs) (priv : Priv) : Verdict :=
  if a.g && ppRefuses a.pp priv then (if Config.violationPriorityIsGuarded then .guardedStorage else .protectedStorage)
  else if a.g then .guardedStorage
  else if ppRefuses a.pp priv then .protectedStorage
  else .allowed

/-- Every enabled region is well formed (R112). -/
def enabledRegionsWellFormed (f : SprFile) : Bool := regions.all fun x => !regionOn f x || wellFormedRegion f x

/-- `IMPU_check` (R113): no check with MSR[IR] = 0 (R101, log 15); refused while an enabled region is ill-formed (R112, log 14).
The address compared is the one the core issued (R104, log 16). -/
def impuCheck (f : SprFile) (ea : Word) (priv : Priv) (msrIr : Bool) : Except Refusal Verdict :=
  if !msrIr then .ok .allowed
  else if enabledRegionsWellFormed f then .ok (attrsVerdict (fetchAttrs f ea) priv)
  else .error .illFormedRegion

end Sys2Proof.Machine
end

