-- ==== Sys2Proof/Machine/Relocation.lean ====
section
/-! DEFINITION. Exception table relocation (42_exception_relocation.md). It reads BBCMCR and changes nothing. -/

namespace Sys2Proof.Machine

/-- Where a fetch goes: to an address, which is an entry of the branch table if `inTable`, or nowhere because it falls
between two relocated entries (R124, R127). -/
inductive Reloc where
  | mapped (addr : Word) (inTable : Bool)
  | gap
deriving DecidableEq, Repr

/-- The 8-Kbyte window 0xFFF0_0000 to 0xFFF0_1FFF: `ea[0:11] = 0xFFF` and `ea[12:18] = 0` (R123). -/
def inVectorWindow (ea : Word) : Bool := manualField ea 0 12 == 0xFFF && manualField ea 12 7 == 0

/-- The address lies between two entries: `ea[24:31] != 0` (R127). -/
def betweenEntries (ea : Word) : Bool := manualField ea 24 8 != 0

/-- The vector number of an address in the window, `ea[19:23]` (R124). -/
def vectorNumber (ea : Word) : BitVec 5 := manualField ea 19 5

/-- The offset of entry `i` of the branch table: `i << 3`, 0x8000 higher with OERC = 1, but for the reset entry
(R124, R125, R126). -/
def tableOffset (oerc : Bool) (i : BitVec 5) : Word :=
  (i.zeroExtend 32 <<< 3) + (if oerc && i != 1 then 0x8000 else 0)

/-- `relocate` (R124). An address outside the window, and every address with ETRE = 0, goes out unchanged (R122, R128). -/
def relocate (f : SprFile) (ea : Word) : Reloc :=
  if !inVectorWindow ea then .mapped ea false
  else if !fieldEtre f.bbcmcr then .mapped ea false
  else if betweenEntries ea then .gap
  else .mapped (Config.intMemBase + tableOffset (fieldOerc f.bbcmcr) (vectorNumber ea)) true

/-- The addresses the spec names as internal memory: the first 8 Kbytes from `IntMemBase` (R131, R128), the branch table of
OERC = 0 among them (R124), and the 256 bytes of the table of OERC = 1 (R125, 70_reset_and_hazards.md R199). -/
def namedInternal (a : Word) : Bool :=
  decide ((a - Config.intMemBase).toNat < 0x2000) ||
    (decide (0x8000 ≤ (a - Config.intMemBase).toNat) && decide ((a - Config.intMemBase).toNat < 0x8100))

/-- A row of Table 4-1: the 20 least significant bits of the vector the core issues, and the mapped offsets for
OERC = 0 and OERC = 1 (R130). -/
structure VectorRow where
  name : String
  issued : BitVec 20
  mapped0 : BitVec 16
  mapped1 : BitVec 16
deriving DecidableEq, Repr

/-- Table 4-1, "Exception Addresses Mapping by BBC", its 21 rows (R130). -/
def table41 : List VectorRow :=
  [⟨"Reserved", 0x00000, 0x0000, 0x8000⟩,
   ⟨"System Reset", 0x00100, 0x0008, 0x0008⟩,
   ⟨"Machine Check", 0x00200, 0x0010, 0x8010⟩,
   ⟨"Data Storage", 0x00300, 0x0018, 0x8018⟩,
   ⟨"Instruction Storage", 0x00400, 0x0020, 0x8020⟩,
   ⟨"External Interrupt", 0x00500, 0x0028, 0x8028⟩,
   ⟨"Alignment", 0x00600, 0x0030, 0x8030⟩,
   ⟨"Program", 0x00700, 0x0038, 0x8038⟩,
   ⟨"Floating Point unavailable", 0x00800, 0x0040, 0x8040⟩,
   ⟨"Decrementer", 0x00900, 0x0048, 0x8048⟩,
   ⟨"Reserved", 0x00A00, 0x0050, 0x8050⟩] ++
  [⟨"Reserved", 0x00B00, 0x0058, 0x8058⟩,
   ⟨"System Call", 0x00C00, 0x0060, 0x8060⟩,
   ⟨"Trace", 0x00D00, 0x0068, 0x8068⟩,
   ⟨"Floating Point Assist", 0x00E00, 0x0070, 0x8070⟩,
   ⟨"Implementation Dependant Software Emulation", 0x01000, 0x0080, 0x8080⟩,
   ⟨"Implementation Dependant Storage Error", 0x01300, 0x0098, 0x8098⟩,
   ⟨"Implementation Dependant Data Breakpoint", 0x01C00, 0x00E0, 0x80E0⟩,
   ⟨"Implementation Dependant Instruction Breakpoint", 0x01D00, 0x00E8, 0x80E8⟩,
   ⟨"Implementation Dependant Maskable External Breakpoint", 0x01E00, 0x00F0, 0x80F0⟩,
   ⟨"Non-Maskable External Breakpoint", 0x01F00, 0x00F8, 0x80F8⟩]

end Sys2Proof.Machine
end

