-- ==== Sys2Proof/Machine/Fetch.lean ====
section
/-! DEFINITION. The Fetch event in one piece (40_modes_of_operation.md R93), and the core's fetch of its next instruction. -/

namespace Sys2Proof.Machine

/-- What the module does with a fetch: it forwards it, or cancels it with an error and perhaps still delivers the access. -/
inductive FetchOutcome where
  | forwarded (u : UbusFetch)
  | cancelled (kind : FetchErrorKind) (delivered : Option UbusFetch)
deriving DecidableEq, Repr

/-- The burst request attribute (R83): BE = 1 and not a debug port access. -/
def burstRequest (f : SprFile) (q : FetchRequest) : Bool := fieldBe f.bbcmcr && !q.dp

/-- The IMPU's verdict on a request. Whether a debug port fetch is checked is open (R88, D25; log 20). -/
def requestVerdict (f : SprFile) (k : Nat) (q : FetchRequest) : Except Refusal Verdict :=
  match impuCheck f q.ea q.priv q.msrIr with
  | .error r => .error r
  | .ok .allowed => .ok .allowed
  | .ok v => if q.dp && !Config.debugFetchChecked k then .ok .allowed else .ok v

/-- Where a request goes. Whether a debug port fetch is relocated is open (R88, D25; log 20). -/
def requestReloc (f : SprFile) (k : Nat) (q : FetchRequest) : Reloc :=
  match relocate f q.ea with
  | .mapped a false => .mapped a false
  | r => if q.dp && !Config.debugFetchRelocated k then .mapped q.ea false else r

/-- Whether an address is internal memory: what the spec names so is, for every other address it is open (20_memory.md R45, N33;
log 21). -/
def isInternal (a : Word) : Bool := namedInternal a || Config.internalMemory a

/-- Whether the address a request goes to is internal memory, relocated there or issued as it is
(42_exception_relocation.md R128). -/
def requestInternal (q : FetchRequest) : Reloc → Bool
  | .mapped a _ => isInternal a
  | .gap => isInternal q.ea

/-- The U-bus access of a request (R84, R85, R93): an access of a gap address carries the issued address (D26, log 27). -/
def ubusAccess (f : SprFile) (q : FetchRequest) (r : Reloc) (cancelled : Bool) : UbusFetch :=
  { addr := match r with
      | .mapped a _ => a
      | .gap => q.ea
    burst := burstRequest f q
    sc := q.sc
    pt := q.pt
    dp := q.dp
    cancelled := cancelled }

/-- A cancelled request is delivered all the same if it carries the show cycle or program trace attribute (R85). -/
def deliveredAccess (f : SprFile) (q : FetchRequest) (r : Reloc) : Option UbusFetch :=
  if q.sc || q.pt then some (ubusAccess f q r true) else none

/-- The handling of a request by both units (R93). With an IMPU violation and a gap at once the violation is reported
(R177, log 13). -/
def decideFetch (f : SprFile) (q : FetchRequest) (v : Verdict) (r : Reloc) : FetchOutcome :=
  match v, r with
  | .guardedStorage, _ => .cancelled .guardedStorage (deliveredAccess f q r)
  | .protectedStorage, _ => .cancelled .protectedStorage (deliveredAccess f q r)
  | .allowed, .gap => .cancelled .relocGap (deliveredAccess f q r)
  | .allowed, .mapped _ _ => .forwarded (ubusAccess f q r false)

/-- A fetch under the register values `f`, in big- or little-endian operation, with draw `k` for what is open. Little-endian
operation is refused with BE = 1 or from internal memory (20_memory.md R44 to R46; log 21). -/
def fetchAccess (f : SprFile) (littleEndian : Bool) (k : Nat) (q : FetchRequest) : Except Refusal FetchOutcome :=
  if littleEndian && (fieldBe f.bbcmcr || requestInternal q (requestReloc f k q)) then .error .littleEndian
  else
    match requestVerdict f k q with
    | .error r => .error r
    | .ok v => .ok (decideFetch f q v (requestReloc f k q))

/-- The outputs of a fetch: at most one access, at most one error (R93). -/
def fetchOutput (o : FetchOutcome) (out : Output) : Output :=
  match o with
  | .forwarded u => { out with ubus := some u, error := none }
  | .cancelled kind d => { out with ubus := d, error := some (fetchErrorOf kind) }

/-- The accesses a fetch leaves pending on the U-bus (10_state.md R30). -/
def issuedAccesses : FetchOutcome → List UbusFetch
  | .forwarded u => [u]
  | .cancelled _ d => d.toList

/-- The Fetch event (R93): it reads all registers and changes none. -/
def handleFetch (q : FetchRequest) (s : State) : Result :=
  if s.clocksOff then .refused .clocksOff
  else
    match fetchAccess s.spr s.core.mode.littleEndian s.ctr q with
    | .error r => .refused r
    | .ok o =>
      .next { s with out := fetchOutput o s.out, pending := s.pending ++ issuedAccesses o, ctr := s.ctr + 1 }

/-- The fetch request of the core's next instruction. -/
def coreRequest (c : CoreSide) : FetchRequest :=
  { ea := c.pc, priv := c.mode.priv, msrIr := c.mode.msrIr, sc := c.sc, pt := c.pt, dp := c.dp }

/-- The register values under which the core's next fetch is handled: the present ones, or, until the core discards what it
fetched ahead, any earlier ones (43_spr_access.md R163, D12; log 22). -/
def fetchView (s : State) : SprFile :=
  match s.stale with
  | [] => s.spr
  | old => (s.spr :: old).getD (Config.fetchAhead s.ctr) s.spr

/-- What the module does with the core's next fetch. -/
def coreFetch (s : State) : Except Refusal FetchOutcome :=
  fetchAccess (fetchView s) s.core.mode.littleEndian s.ctr (coreRequest s.core)

/-- What the fetch of the core's cycle comes to: an instruction to run in a state, or an outcome that ends the cycle. -/
inductive Fetched where
  | run (i : Instr) (s : State)
  | ends (r : Result)

/-- The refusal of a word that is no instruction of the table. -/
def refusalOf : DecodeError → Refusal
  | .truncated => .otherInstruction
  | .otherInstruction => .otherInstruction
  | .reservedBit => .reservedBit
  | .otherSpr n => .otherSpr n

/-- The instruction that answers an access at `a`. -/
def answeredInstr (a : Word) (s : State) : Fetched :=
  match readBytes s.mem a with
  | none => .ends (.fault (.noAnswer a))
  | some bytes =>
    match decodeBytes (instructionBytes s.core.mode.littleEndian bytes) with
    | .error e => .ends (.refused (refusalOf e))
    | .ok (i, _) => .run i s

/-- The fetch of the core's cycle (30_encoding.md R68): a forwarded access is answered within the cycle; an IMPU violation is
an exception the core takes (60_exceptions.md R171, R178); a gap ends the run (R174); the debug port is not described (R88). -/
def fetchInstr (s : State) : Fetched :=
  if s.clocksOff then .ends (.refused .clocksOff)
  else
    match coreFetch s with
    | .error r => .ends (.refused r)
    | .ok (.forwarded u) =>
      if u.dp then .ends (.refused .debugPort)
      else answeredInstr u.addr { s with out := fetchOutput (.forwarded u) s.out, ctr := s.ctr + 1 }
    | .ok (.cancelled .relocGap d) => .ends (.fault (.relocGap d))
    | .ok (.cancelled kind d) =>
      .ends (takeException (fetchErrorOf kind).number (fetchErrorOf kind).srr1
        { s with
          out := fetchOutput (.cancelled kind d) s.out
          pending := s.pending ++ issuedAccesses (.cancelled kind d)
          ctr := s.ctr + 1 })

end Sys2Proof.Machine
end

