-- ==== Sys2Proof/Machine/Events.lean ====
section
/-! DEFINITION. The events other than the core's own cycle (00_scope.md section 5), and the state in which a given word is the
next instruction the core runs. -/

namespace Sys2Proof.Machine

/-- The handling of an event; `coreCycle` is the step's own and answers none here. -/
def handleEvent (e : Event) (s : State) : Option Result :=
  match e with
  | .fetch q => some (handleFetch q s)
  | .mtSpr n v priv => some (handleMtSpr n v priv s)
  | .mfSpr n priv => some (handleMfSpr n priv s)
  | .reset id19 msrIp => some (.next (resetModule id19 msrIp s))
  | .standbyEnter =>
    -- R89: the clocks stop; U16: only with nothing pending.
    some (if s.pending.isEmpty then .next { s with clocksOff := true } else .refused .pendingAtStandby)
  | .standbyExit => some (.next { s with clocksOff := false })
  | .coreCycle => none
  | .coreChange c => some (.next { s with core := c })
  | .coreDiscard => some (.next { s with stale := [] })
  | .memWrite a b => some (.next { s with mem := s.mem.write a.toNat b })
  | .ubusComplete k =>
    some (if k < s.pending.length then .next { s with pending := s.pending.eraseIdx k } else .refused (.noSuchAccess k))

/-- The address from which the core's next fetch is answered; none if the module or the model stops it. -/
def answerAddr (s : State) : Option Word :=
  match coreFetch s with
  | .ok (.forwarded u) => if u.dp then none else some u.addr
  | _ => none

/-- The core's side with what can stop its next fetch taken away: no check, big-endian, no debug port, and an address between
two vectors moved down to its vector. -/
def unstoppedCore (c : CoreSide) : CoreSide :=
  { c with
    pc := c.pc &&& 0xFFFFFF00
    mode := { c.mode with msrIr := false, littleEndian := false }
    dp := false }

/-- A state whose next step is the core's own cycle. -/
def readyForCycle (s : State) : State := { s with inputs := [], clocksOff := false }

/-- A word stored where the core's next fetch is answered, in the byte order in which the core reads it. -/
def storeAnswer (a : Word) (w : Word) (s : State) : State :=
  { s with mem := writeBytesFrom s.mem a 0 (instructionBytes s.core.mode.littleEndian (bigEndianBytes w)) }

/-- The state in which the very next step runs the instruction word `w` (log 29). -/
def placeInstr (w : Word) (s : State) : State :=
  match answerAddr (readyForCycle s) with
  | some a => storeAnswer a w (readyForCycle s)
  | none =>
    match answerAddr { readyForCycle s with core := unstoppedCore s.core } with
    | some a => storeAnswer a w { readyForCycle s with core := unstoppedCore s.core }
    | none => readyForCycle s

end Sys2Proof.Machine
end

