-- ==== Sys2Proof/Machine/Step.lean ====
section
/-! DEFINITION. One step: the next event, or with no event left the core's next instruction (log 26). -/

namespace Sys2Proof.Machine

/-- The core's own cycle: fetch through the module, then run (30_encoding.md R68). -/
def runFetched (f : Fetched) : Host.Outcome State Fault Refusal :=
  match f with
  | .run i s => exec i s
  | .ends r => r

/-- The outputs of the step before are gone. -/
def freshOutput (s : State) : State := { s with out := Output.none }

def step (s : State) : Host.Outcome State Fault Refusal :=
  match s.inputs with
  | e :: rest =>
    match handleEvent e (freshOutput { s with inputs := rest }) with
    | some r => r
    | none => runFetched (fetchInstr (freshOutput { s with inputs := rest }))
  | [] =>
    -- In standby the core issues nothing (R89).
    if s.clocksOff then .next (freshOutput s) else runFetched (fetchInstr (freshOutput s))

/-- `s` with an instruction word stored where `step` fetches its next instruction (log 29). -/
def State.withFetchWord (s : State) (nbits w : Nat) : State := placeInstr (BitVec.ofNat 32 (w % 2 ^ nbits)) s

end Sys2Proof.Machine
end

