-- ==== Sys2Proof/Machine/Modes.lean ====
section
/-! DEFINITION. The six modes of operation (40_modes_of_operation.md R80): descriptions of what the module is doing, no state;
several hold at once. -/

namespace Sys2Proof.Machine

/-- The modes of R80. -/
inductive OperatingMode where
  | normal
  | slave
  | reset
  | debug
  | standby
  | burst
deriving DecidableEq, Repr

/-- What the next step handles: the first input, or with none the core's own cycle. -/
def nextEvent (s : State) : Event :=
  match s.inputs with
  | e :: _ => e
  | [] => .coreCycle

/-- Whether a mode holds while the module handles event `e` in state `s`, by the conditions R80 gives. The core's cycle is a
fetch, and then, if an instruction of the table answers, an mtspr or mfspr; with the clocks off it is neither (R89). DESIGN
CHOICE (log 31): Slave holds by R80's words, also while a user-mode mtspr or mfspr is handled and refused, though by R86 and R141
no slave access is then made and none is recorded. -/
def operatesIn (s : State) (e : Event) : OperatingMode → Bool
  | .normal => match e with
    | .fetch _ => true
    | .coreCycle => !s.clocksOff
    | _ => false
  | .slave => match e with
    | .mtSpr n _ _ => (sprOfNumber n).isSome
    | .mfSpr n _ => (sprOfNumber n).isSome
    | .coreCycle => match fetchInstr s with
      | .run _ _ => true
      | .ends _ => false
    | _ => false
  | .reset => match e with
    | .reset _ _ => true
    | _ => false
  | .debug => match e with
    | .fetch q => q.dp
    | .coreCycle => s.core.dp && !s.clocksOff
    | _ => false
  | .standby => s.clocksOff
  | .burst => fieldBe s.spr.bbcmcr

end Sys2Proof.Machine
end

