-- ==== Sys2Proof/Safety.lean ====
section
/-! DEFINITION. What counts as a safe state and a safe step, in the terms the statements use. -/

namespace Sys2Proof.Machine

/-- A register file holds 0 in every reserved position: only the named fields are kept (10_state.md R28). -/
def SprFile.canonical (f : SprFile) : Prop := ∀ n : SprName, f.get n &&& reservedMask n = 0

/-- A file of reserved positions holds 0 in every named position. -/
def SprFile.reservedOnly (f : SprFile) : Prop := ∀ n : SprName, f.get n &&& namedMask n = 0

/-- A U-bus access the module may have issued: a debug port access requests no burst (R88), and a cancelled access has the
show cycle or program trace attribute (R85). -/
def UbusFetch.wellFormed (u : UbusFetch) : Prop :=
  (u.dp = true → u.burst = false) ∧ (u.cancelled = true → u.sc = true ∨ u.pt = true)

/-- The invariant of the machine. -/
structure State.Inv (s : State) : Prop where
  /-- Memory is in its canonical form (log 25). -/
  memCanonical : Memory.wf s.mem = true
  /-- Reserved positions are no state of the registers (R28). -/
  sprCanonical : s.spr.canonical
  /-- The same of every earlier register file a fetch may use. -/
  staleCanonical : ∀ f ∈ s.stale, f.canonical
  /-- The remembered ones stand in reserved positions. -/
  reservedCanonical : s.reservedOnes.reservedOnly
  /-- Standby is entered only with nothing pending, and nothing is issued in it (R89, U16). -/
  standbyIdle : s.clocksOff = true → s.pending = []
  /-- Every pending access is one the module may have issued. -/
  pendingWellFormed : ∀ u ∈ s.pending, u.wellFormed

/-- The next state of a result; none for a fault or a refusal. -/
def nextState : Result → Option State
  | .next t => some t
  | .fault _ => none
  | .refused _ => none

/-- The step goes on: it ends in no fault and no refusal. -/
def goesOn (s : State) : Prop := ∃ t, step s = .next t

/-- The core's side is ready to run an instruction by the plainest route: no event comes first, the clocks are on, nothing the
core fetched ahead is in play, the fetch is not checked, not relocated, big-endian and not to the debug port. -/
def State.runsPlainly (s : State) : Prop :=
  s.inputs = [] ∧ s.clocksOff = false ∧ s.stale = [] ∧ s.core.mode.msrIr = false ∧ fieldEtre s.spr.bbcmcr = false ∧
    s.core.mode.littleEndian = false ∧ s.core.dp = false

/-- The next step handles the Fetch event `q`, in big-endian operation with the clocks on (R89, R46). -/
def State.fetchesNext (s : State) (q : FetchRequest) : Prop :=
  (∃ rest, s.inputs = .fetch q :: rest) ∧ s.clocksOff = false ∧ s.core.mode.littleEndian = false

/-- The next step handles the checked Fetch event `q`, not to the debug port, with every enabled region well formed. -/
def State.checksNext (s : State) (q : FetchRequest) : Prop :=
  s.fetchesNext q ∧ q.msrIr = true ∧ q.dp = false ∧ enabledRegionsWellFormed s.spr = true

end Sys2Proof.Machine
end

