-- ==== Sys2Proof/Certificates/Slice0/Obligations.lean ====
section
/-! DEFINITION. The statements for the provers. `x[r]` is `s.core.gpr[r]`; bits are numbered as the manual numbers them. -/

open Sys2Proof Sys2Proof.Machine

/-! ### Encodings -/

/-- 30_encoding.md section 3: no bit of an encoding is dropped, at every register number the field admits. -/
def Obligations.DecodeOfEncodeIsTheInstr : Prop :=
  ∀ i : Instr, i.wf = true →
    decodeWord (encode i) = .ok i ∧ ∀ rest, decodeBytes (encodeBytes i ++ rest) = .ok (i, rest)

/-- Each word has one meaning, and a decoded instruction is well formed. The bit layout is the spec's general knowledge GK2
(30_encoding.md section 3; PRESUMED, log 2); that a word with the reserved bit 31 set decodes to nothing is the model's choice
(log 28). -/
def Obligations.DecodedWordIsItsOwnEncoding : Prop :=
  ∀ (w : Word) (i : Instr), decodeWord w = .ok i → i.wf = true ∧ encode i = w

/-- 30_encoding.md section 3, the table of R64: the 20 words with register field 0; "add r << 21 for general register r". The
bit layout is the spec's general knowledge GK2 (log 2). -/
def Obligations.TableWordsDecodeToTheirRows : Prop :=
  ∀ row ∈ ([(0x7C10C3A6, .mtsprMiRba0), (0x7C11C3A6, .mtsprMiRba1), (0x7C12C3A6, .mtsprMiRba2), (0x7C13C3A6, .mtsprMiRba3),
      (0x7C10CBA6, .mtsprMiRa0), (0x7C11CBA6, .mtsprMiRa1), (0x7C12CBA6, .mtsprMiRa2), (0x7C13CBA6, .mtsprMiRa3),
      (0x7C1083A6, .mtsprMiGra), (0x7C108BA6, .mtsprBbcmcr),
      (0x7C10C2A6, .mfsprMiRba0), (0x7C11C2A6, .mfsprMiRba1), (0x7C12C2A6, .mfsprMiRba2), (0x7C13C2A6, .mfsprMiRba3),
      (0x7C10CAA6, .mfsprMiRa0), (0x7C11CAA6, .mfsprMiRa1), (0x7C12CAA6, .mfsprMiRa2), (0x7C13CAA6, .mfsprMiRa3),
      (0x7C1082A6, .mfsprMiGra), (0x7C108AA6, .mfsprBbcmcr)] : List (Word × (Nat → Instr))),
    ∀ r < 32, decodeWord (row.1 ||| BitVec.ofNat 32 r <<< 21) = .ok (row.2 r)

/-- 30_encoding.md sections 1 and 2: the SPR number of each register, in 10 bits (R60), the register a number addresses, and the
`ub_addr` column of the table (R61), read as a 32-bit address with upper bits 0, which is the spec's reading C10 (log 33). -/
def Obligations.SprNumbersAndBusAddresses : Prop :=
  ∀ row ∈ ([(.miRba0, 784, 0x2180), (.miRba1, 785, 0x2380), (.miRba2, 786, 0x2580), (.miRba3, 787, 0x2780),
      (.miRa0, 816, 0x2190), (.miRa1, 817, 0x2390), (.miRa2, 818, 0x2590), (.miRa3, 819, 0x2790),
      (.miGra, 528, 0x2100), (.bbcmcr, 560, 0x2110)] : List (SprName × BitVec 10 × Word)),
    sprNumber row.1 = row.2.1 ∧ sprOfNumber row.2.1 = some row.1 ∧ ubAddr row.2.1 = row.2.2

/-- 30_encoding.md section 2 (a relation this spec derives from the two columns of R61): the U-bus address of a number is the
number with its two halves swapped, 16 bytes apart. -/
def Obligations.BusAddressSwapsTheHalves : Prop :=
  ∀ n : BitVec 10, (ubAddr n).toNat = ((n.toNat % 32) * 32 + n.toNat / 32) * 16

/-! ### mtspr and mfspr -/

/-- 43_spr_access.md section 2, 10_state.md section 7. All ten mtspr instructions (to MI_RBA0, MI_RBA1, MI_RBA2, MI_RBA3,
MI_RA0, MI_RA1, MI_RA2, MI_RA3, MI_GRA, BBCMCR) complete in supervisor mode with the clocks on, whatever x[rS] holds, and this is
the whole next state. What is kept of the reserved bits and of the earlier register values, and the step of 4, are the model's
(log 8, log 22, log 1). -/
def Obligations.SupervisorMtsprCompletes : Prop :=
  ∀ (n : SprName) (r : Nat) (hr : r < 32) (s : State), s.core.mode.priv = .supervisor → s.clocksOff = false →
    exec (Instr.mtspr n r) s = .next
      { s with
        spr := s.spr.set n (s.core.gpr[r] &&& namedMask n)
        reservedOnes := s.reservedOnes.set n (s.reservedOnes.get n ||| (s.core.gpr[r] &&& reservedMask n))
        stale := s.spr :: s.stale
        core := { s.core with pc := s.core.pc + 4 }
        out := { s.out with slave := some { ubAddr := ubAddr (sprNumber n), direction := .write } } }

/-- 43_spr_access.md section 3, 10_state.md section 7. All ten mfspr instructions (from MI_RBA0, MI_RBA1, MI_RBA2, MI_RBA3,
MI_RA0, MI_RA1, MI_RA2, MI_RA3, MI_GRA, BBCMCR) complete in supervisor mode with the clocks on, and this is the whole next state:
x[rD] is the register's value, with a free bit in each reserved position in which a 1 was written (log 8). -/
def Obligations.SupervisorMfsprCompletes : Prop :=
  ∀ (n : SprName) (r : Nat), r < 32 → ∀ s : State, s.core.mode.priv = .supervisor → s.clocksOff = false →
    ∃ v : Word, v = s.spr.get n ||| (Config.freeReserved s.ctr &&& s.reservedOnes.get n) ∧
      exec (Instr.mfspr n r) s = .next
        { s with
          core := { s.core with gpr := s.core.gpr.setIfInBounds r v, pc := s.core.pc + 4 }
          out := { s.out with slave := some { ubAddr := ubAddr (sprNumber n), direction := .read }, data := some v }
          ctr := s.ctr + 1 }

/-- 43_spr_access.md section 2 (R142 to R145; the word rests on GK2, log 2): mtspr MI_RBAx, its word, its effect "MI_RBAx.RA <- v[0:19]", the write always succeeding, the
region off its size boundary made ill-formed, and the match of the next fetch with the new base. -/
def Obligations.MtsprRegionBaseSetsRa : Prop :=
  ∀ (x : Fin 4) (r : Nat) (hr : r < 32) (s : State), s.core.mode.priv = .supervisor → s.clocksOff = false →
    decodeWord (0x7C10C3A6 + BitVec.ofNat 32 x.val <<< 16 ||| BitVec.ofNat 32 r <<< 21) = .ok (Instr.mtspr (regionBaseSpr x) r) ∧
    ∃ t, exec (Instr.mtspr (regionBaseSpr x) r) s = .next t ∧
      fieldRa (t.spr.rba x) = manualField s.core.gpr[r] 0 20 ∧
      (∀ n, n ≠ regionBaseSpr x → t.spr.get n = s.spr.get n) ∧
      (∀ ea : Word, regionMatches t.spr x ea =
        (manualField ea 0 20 &&& ~~~ fieldRs (s.spr.ra x) == manualField s.core.gpr[r] 0 20)) ∧
      (manualField s.core.gpr[r] 0 20 &&& fieldRs (s.spr.ra x) ≠ 0 → wellFormedRegion t.spr x = false)

/-- 43_spr_access.md section 2 (R146 to R149; the word rests on GK2, log 2): mtspr MI_RAx, its word, its effect on RS, PP and G, the write always succeeding, and a region
with an RS outside the 21 legal values made ill-formed. -/
def Obligations.MtsprRegionAttributesSetsRsPpG : Prop :=
  ∀ (x : Fin 4) (r : Nat) (hr : r < 32) (s : State), s.core.mode.priv = .supervisor → s.clocksOff = false →
    decodeWord (0x7C10CBA6 + BitVec.ofNat 32 x.val <<< 16 ||| BitVec.ofNat 32 r <<< 21) = .ok (Instr.mtspr (regionAttrSpr x) r) ∧
    ∃ t, exec (Instr.mtspr (regionAttrSpr x) r) s = .next t ∧
      fieldRs (t.spr.ra x) = manualField s.core.gpr[r] 0 20 ∧
      fieldPp (t.spr.ra x) = manualField s.core.gpr[r] 20 2 ∧
      fieldG (t.spr.ra x) = manualBit s.core.gpr[r] 25 ∧
      (∀ n, n ≠ regionAttrSpr x → t.spr.get n = s.spr.get n) ∧
      ((∀ k ≤ 20, (manualField s.core.gpr[r] 0 20).toNat + 1 ≠ 2 ^ k) → wellFormedRegion t.spr x = false)

/-- 43_spr_access.md section 2 (R150; the word rests on GK2, log 2): mtspr MI_GRA sets the four enables, PP and G in one write. -/
def Obligations.MtsprGlobalSetsEnablesPpG : Prop :=
  ∀ (r : Nat) (hr : r < 32) (s : State), s.core.mode.priv = .supervisor → s.clocksOff = false →
    decodeWord (0x7C1083A6 ||| BitVec.ofNat 32 r <<< 21) = .ok (.mtsprMiGra r) ∧
    ∃ t, exec (.mtsprMiGra r) s = .next t ∧
      (∀ x : Fin 4, regionOn t.spr x = manualBit s.core.gpr[r] x.val) ∧
      fieldPp t.spr.miGra = manualField s.core.gpr[r] 20 2 ∧
      fieldG t.spr.miGra = manualBit s.core.gpr[r] 25 ∧
      (∀ n, n ≠ .miGra → t.spr.get n = s.spr.get n)

/-- 43_spr_access.md section 2 (R151; the word rests on GK2, log 2): mtspr BBCMCR sets BE, ETRE and OERC; setting ETRE changes where a vector fetch goes next, and software
may clear it again. -/
def Obligations.MtsprConfigSetsBeEtreOerc : Prop :=
  ∀ (r : Nat) (hr : r < 32) (s : State), s.core.mode.priv = .supervisor → s.clocksOff = false →
    decodeWord (0x7C108BA6 ||| BitVec.ofNat 32 r <<< 21) = .ok (.mtsprBbcmcr r) ∧
    ∃ t, exec (.mtsprBbcmcr r) s = .next t ∧
      fieldBe t.spr.bbcmcr = manualBit s.core.gpr[r] 18 ∧
      fieldEtre t.spr.bbcmcr = manualBit s.core.gpr[r] 19 ∧
      fieldOerc t.spr.bbcmcr = manualBit s.core.gpr[r] 20 ∧
      (∀ n, n ≠ .bbcmcr → t.spr.get n = s.spr.get n) ∧
      (manualBit s.core.gpr[r] 19 = false → ∀ ea, relocate t.spr ea = .mapped ea false) ∧
      (manualBit s.core.gpr[r] 19 = true →
        relocate t.spr 0xFFF00500 = .mapped (Config.intMemBase + if manualBit s.core.gpr[r] 20 then 0x8028 else 0x0028) true)

/-- 43_spr_access.md section 3, 10_state.md section 7 (R28 is this spec's choice D5): mfspr returns the named fields at their
positions and 0 in a reserved position in which no 1 was written; no state of the module changes. -/
def Obligations.MfsprReturnsNamedFields : Prop :=
  ∀ (n : SprName) (r : Nat), r < 32 → ∀ s : State, s.Inv → s.core.mode.priv = .supervisor → s.clocksOff = false →
    ∃ t v, exec (Instr.mfspr n r) s = .next t ∧ readGpr t.core r = some v ∧
      v &&& namedMask n = s.spr.get n ∧
      (∀ k < 32, (reservedMask n).getLsbD k = true → (s.reservedOnes.get n).getLsbD k = false → v.getLsbD k = false) ∧
      t.spr = s.spr ∧ t.reservedOnes = s.reservedOnes ∧ t.pending = s.pending

/-- 43_spr_access.md sections 2 and 3: what mtspr wrote, mfspr reads, if no 1 was ever put in a reserved position. -/
def Obligations.MtsprThenMfsprReadsBack : Prop :=
  ∀ (n : SprName) (r k : Nat) (hr : r < 32), k < 32 → ∀ s : State, s.core.mode.priv = .supervisor → s.clocksOff = false →
    s.core.gpr[r] &&& reservedMask n = 0 → s.reservedOnes.get n = 0 →
    ∃ t u, exec (Instr.mtspr n r) s = .next t ∧ exec (Instr.mfspr n k) t = .next u ∧ readGpr u.core k = some s.core.gpr[r]

/-- 43_spr_access.md sections 1 and 2: the frame of the ten mtspr instructions. In supervisor mode only the addressed register
changes, and no general register, mode bit, fetch attribute, SRR1 bit or byte of memory does. -/
def Obligations.MtsprFrame : Prop :=
  ∀ (n : SprName) (r : Nat) (s t : State), s.core.mode.priv = .supervisor → exec (Instr.mtspr n r) s = .next t →
    (∀ m, m ≠ n → t.spr.get m = s.spr.get m ∧ t.reservedOnes.get m = s.reservedOnes.get m) ∧
    (∀ k, readGpr t.core k = readGpr s.core k) ∧
    t.core.mode = s.core.mode ∧ t.core.srr1 = s.core.srr1 ∧
    t.core.sc = s.core.sc ∧ t.core.pt = s.core.pt ∧ t.core.dp = s.core.dp ∧
    (∀ a, Memory.read t.mem a = Memory.read s.mem a) ∧
    t.pending = s.pending ∧ t.clocksOff = s.clocksOff ∧ t.inputs = s.inputs ∧ t.ctr = s.ctr

/-- 43_spr_access.md sections 1 and 3: the frame of the ten mfspr instructions. In supervisor mode only x[rD] changes; no register
of the module, other general register, mode bit, fetch attribute, SRR1 bit or byte of memory does. -/
def Obligations.MfsprFrame : Prop :=
  ∀ (n : SprName) (r : Nat) (s t : State), s.core.mode.priv = .supervisor → exec (Instr.mfspr n r) s = .next t →
    t.spr = s.spr ∧ t.reservedOnes = s.reservedOnes ∧ t.stale = s.stale ∧
    (∀ k, k ≠ r → readGpr t.core k = readGpr s.core k) ∧
    t.core.mode = s.core.mode ∧ t.core.srr1 = s.core.srr1 ∧
    t.core.sc = s.core.sc ∧ t.core.pt = s.core.pt ∧ t.core.dp = s.core.dp ∧
    (∀ a, Memory.read t.mem a = Memory.read s.mem a) ∧
    t.pending = s.pending ∧ t.clocksOff = s.clocksOff ∧ t.inputs = s.inputs

/-- 43_spr_access.md section 1 (R141), for all 20 instructions: in user mode the core takes the exception `UserSprFault`, no
register of the module is written, x[rD] is not written, memory stays. That the exception's vector has the form of R121 is the
model's inference (log 9), what the entry leaves free is log 10; the excluded case is `ExceptionNeedsIpWithRelocation`. -/
def Obligations.UserAccessTakesException : Prop :=
  ∀ (i : Instr) (s : State), i.wf = true → s.core.mode.priv = .user → s.clocksOff = false →
    (fieldEtre s.spr.bbcmcr = false ∨ s.core.mode.msrIp = true) →
    ∃ t, exec i s = .next t ∧ t.out.userSprFault = true ∧
      t.core.pc = vectorAddr s.core.mode.msrIp Config.userSprFault ∧
      t.spr = s.spr ∧ t.reservedOnes = s.reservedOnes ∧ t.stale = s.stale ∧ t.pending = s.pending ∧
      (∀ k, readGpr t.core k = readGpr s.core k) ∧
      (∀ a, Memory.read t.mem a = Memory.read s.mem a)

/-- 43_spr_access.md section 1 (R141): a user-mode MtSpr or MfSpr event for one of the ten registers raises UserSprFault; no
register is written, no value is returned, no general register is written. That nothing in the module changes and no slave access
is made is the spec's inference and its decision D17 (log 31). -/
def Obligations.UserAccessEventRaisesUserSprFault : Prop :=
  ∀ (n : SprName) (v : Word) (rest : List Event) (s : State), s.clocksOff = false →
    (s.inputs = .mtSpr (sprNumber n) v .user :: rest ∨ s.inputs = .mfSpr (sprNumber n) .user :: rest) →
    ∃ t, step s = .next t ∧ t.out.userSprFault = true ∧ t.out.data = none ∧ t.out.slave = none ∧
      t.spr = s.spr ∧ t.reservedOnes = s.reservedOnes ∧ t.core = s.core

/-- 42_exception_relocation.md section 5 (R132, this spec's decision D7; log 19): with ETRE = 1 and MSR[IP] = 0 a user-mode access
is refused, and so is the core's fetch of an address the IMPU refuses: each would take an exception the spec does not define. -/
def Obligations.ExceptionNeedsIpWithRelocation : Prop :=
  (∀ (i : Instr) (s : State), i.wf = true → s.core.mode.priv = .user → s.clocksOff = false →
    fieldEtre s.spr.bbcmcr = true → s.core.mode.msrIp = false → exec i s = .refused .relocationNeedsIp) ∧
  ∀ (s : State) (v : Verdict), s.inputs = [] → s.clocksOff = false → s.stale = [] → s.core.mode.littleEndian = false →
    s.core.dp = false → fieldEtre s.spr.bbcmcr = true → s.core.mode.msrIp = false →
    impuCheck s.spr s.core.pc s.core.mode.priv s.core.mode.msrIr = .ok v → v ≠ .allowed → step s = .refused .relocationNeedsIp

/-- 40_modes_of_operation.md section 6 (R89): while the clocks are off no register access has a meaning. -/
def Obligations.AccessInStandbyIsRefused : Prop :=
  ∀ (i : Instr) (s : State), i.wf = true → s.clocksOff = true → exec i s = .refused .clocksOff

/-- 43_spr_access.md section 4 (R162, this spec's decision D24): an access with any other SPR number is refused, not a no-op. -/
def Obligations.OtherSprNumbersAreRefused : Prop :=
  ∀ (n : BitVec 10) (v : Word) (priv : Priv) (rest : List Event) (s : State),
    n.toNat ∉ [784, 785, 786, 787, 816, 817, 818, 819, 528, 560] →
    (s.inputs = .mtSpr n v priv :: rest ∨ s.inputs = .mfSpr n priv :: rest) → step s = .refused (.otherSpr n)

/-! ### A step of the core -/

/-- 30_encoding.md section 7 (R68): with no event first, a step whose fetch is forwarded and answered by the bytes of an
instruction is that instruction, run after the fetch's output is recorded and its draw used up. -/
def Obligations.StepRunsTheDecodedInstr : Prop :=
  ∀ (s : State) (u : UbusFetch) (bytes : List Byte) (i : Instr) (rest : List Byte),
    s.inputs = [] → s.clocksOff = false → coreFetch s = .ok (.forwarded u) → u.dp = false →
    readBytes s.mem u.addr = some bytes → decodeBytes (instructionBytes s.core.mode.littleEndian bytes) = .ok (i, rest) →
    step s = exec i { s with out := { Output.none with ubus := some u }, ctr := s.ctr + 1 }

/-- 30_encoding.md section 7 (R68), 40_modes_of_operation.md section 2: where nothing checks, relocates or delays the fetch, the
instruction at the core's pc is the one that runs, and its fetch goes out at the pc. -/
def Obligations.StepRunsTheInstrAtPc : Prop :=
  ∀ (s : State) (b0 b1 b2 b3 : Byte) (i : Instr), s.runsPlainly →
    readBytes s.mem s.core.pc = some [b0, b1, b2, b3] → decodeWord (bigEndianWord b0 b1 b2 b3) = .ok i →
    step s = exec i
      { s with
        out := { Output.none with
          ubus := some { addr := s.core.pc, burst := fieldBe s.spr.bbcmcr, sc := s.core.sc, pt := s.core.pt, dp := false,
                         cancelled := false } }
        ctr := s.ctr + 1 }

/-- Log 29: a word placed by `withFetchWord` is the word the next step runs. -/
def Obligations.PlacedWordIsTheNextInstr : Prop :=
  ∀ (s : State) (w : Word) (i : Instr), s.runsPlainly → decodeWord w = .ok i →
    step (s.withFetchWord 32 w.toNat) = exec i
      { s.withFetchWord 32 w.toNat with
        out := { Output.none with
          ubus := some { addr := s.core.pc, burst := fieldBe s.spr.bbcmcr, sc := s.core.sc, pt := s.core.pt, dp := false,
                         cancelled := false } }
        ctr := s.ctr + 1 }

/-- 43_spr_access.md section 4 (R163, this spec's decision D12; log 22): the core's fetch is handled under the present register
values or under earlier ones, and only under the present ones once the core has discarded what it fetched ahead. -/
def Obligations.CoreFetchUsesOldOrNewRegisters : Prop :=
  ∀ s : State, (fetchView s = s.spr ∨ fetchView s ∈ s.stale) ∧
    ∀ rest, s.inputs = .coreDiscard :: rest → ∃ t, step s = .next t ∧ t.spr = s.spr ∧ fetchView t = s.spr

/-! ### The IMPU check -/

/-- 41_impu_fetch_check.md section 1 (R101, this spec's decision D1; log 15): with MSR[IR] = 0 no fetch is a violation, whatever
the registers and the privilege. -/
def Obligations.NoViolationWithMsrIrClear : Prop :=
  ∀ (s : State) (q : FetchRequest), s.fetchesNext q → q.msrIr = false → q.dp = false →
    ∃ t, step s = .next t ∧
      (relocate s.spr q.ea = .gap → t.out.error = some (fetchErrorOf .relocGap)) ∧
      (∀ a b, relocate s.spr q.ea = .mapped a b →
        t.out.error = none ∧ ∃ u, t.out.ubus = some u ∧ u.addr = a ∧ u.cancelled = false)

/-- 41_impu_fetch_check.md section 2 (R108): G = 1 of the chosen region refuses the fetch whatever priv and PP are; the violation
is guarded storage, unless PP refuses the access as well (then R173 leaves open which of the two is reported). That the violation
and not the gap is reported where the address is a relocation gap too is the spec's decision D27 (log 13). -/
def Obligations.GuardedRegionRefusesEveryFetch : Prop :=
  ∀ (s : State) (q : FetchRequest), s.checksNext q → (fetchAttrs s.spr q.ea).g = true →
    ∃ t, step s = .next t ∧ (∀ u, t.out.ubus = some u → u.cancelled = true) ∧
      (t.out.error = some (fetchErrorOf .guardedStorage) ∨
        (((fetchAttrs s.spr q.ea).pp = 0 ∨ ((fetchAttrs s.spr q.ea).pp = 1 ∧ q.priv = .user)) ∧
          t.out.error = some (fetchErrorOf .protectedStorage)))

/-- 41_impu_fetch_check.md section 2 (R107): PP = 00 refuses everybody, 01 the user, 10 and 11 nobody; a fetch refused by PP alone
is a protected storage violation. That it is so at a relocation gap too is the spec's decision D27 (log 13). -/
def Obligations.PpDecidesTheFetch : Prop :=
  ∀ (s : State) (q : FetchRequest), s.checksNext q → (fetchAttrs s.spr q.ea).g = false →
    ∃ t, step s = .next t ∧
      (((fetchAttrs s.spr q.ea).pp = 0 ∨ ((fetchAttrs s.spr q.ea).pp = 1 ∧ q.priv = .user)) →
        t.out.error = some (fetchErrorOf .protectedStorage) ∧ ∀ u, t.out.ubus = some u → u.cancelled = true) ∧
      (¬((fetchAttrs s.spr q.ea).pp = 0 ∨ ((fetchAttrs s.spr q.ea).pp = 1 ∧ q.priv = .user)) →
        t.out.error ≠ some (fetchErrorOf .protectedStorage) ∧ t.out.error ≠ some (fetchErrorOf .guardedStorage))

/-- 41_impu_fetch_check.md R105: the attributes of the enabled matching region of the lowest index alone decide. -/
def Obligations.LowestMatchingRegionDecides : Prop :=
  ∀ (f : SprFile) (ea : Word) (priv : Priv) (x : Fin 4), enabledRegionsWellFormed f = true →
    regionOn f x = true → regionMatches f x ea = true →
    (∀ y : Fin 4, y < x → regionOn f y = false ∨ regionMatches f y ea = false) →
    impuCheck f ea priv true = .ok (attrsVerdict { pp := fieldPp (f.ra x), g := fieldG (f.ra x) } priv)

/-- 41_impu_fetch_check.md R106: if no enabled region matches, MI_GRA.PP and MI_GRA.G decide. -/
def Obligations.GlobalRegionDecidesWhenNoneMatches : Prop :=
  ∀ (f : SprFile) (ea : Word) (priv : Priv), enabledRegionsWellFormed f = true →
    (∀ x : Fin 4, regionOn f x = false ∨ regionMatches f x ea = false) →
    impuCheck f ea priv true = .ok (attrsVerdict { pp := fieldPp f.miGra, g := fieldG f.miGra } priv)

/-- 41_impu_fetch_check.md R102: a region that is off matches no address, and what its two registers hold changes no verdict. -/
def Obligations.RegionOffTakesNoPart : Prop :=
  ∀ (f : SprFile) (x : Fin 4), regionOn f x = false →
    (∀ ea, chosenRegion f ea ≠ some x) ∧
    ∀ (v : Word) (ea : Word) (priv : Priv) (msrIr : Bool),
      impuCheck (f.set (regionBaseSpr x) v) ea priv msrIr = impuCheck f ea priv msrIr ∧
      impuCheck (f.set (regionAttrSpr x) v) ea priv msrIr = impuCheck f ea priv msrIr

/-- 41_impu_fetch_check.md section 1 (R103, its derived equality): for a well-formed region the masked comparison is the address
range from the base up to but not including base plus size. -/
def Obligations.MatchIsTheAddressRange : Prop :=
  ∀ (f : SprFile) (x : Fin 4) (ea : Word), wellFormedRegion f x = true →
    (regionMatches f x ea = true ↔
      (regionBase f x).toNat ≤ ea.toNat ∧ ea.toNat < (regionBase f x).toNat + regionSize (fieldRs (f.ra x)))

/-- 10_state.md section 4 (R16): the legal RS values are the 21 of the form 2^k - 1, and the size is then 2^(12 + k) bytes. -/
def Obligations.LegalSizesArePowersOfTwo : Prop :=
  ∀ rs : BitVec 20, (legalRs rs = true ↔ ∃ k ≤ 20, rs.toNat + 1 = 2 ^ k) ∧
    ∀ k, rs.toNat + 1 = 2 ^ k → regionSize rs = 2 ^ (12 + k)

/-- 41_impu_fetch_check.md section 2 (R112, this spec's decisions D3, D4; log 14): while an enabled region is ill-formed, every
checked Fetch event is refused. -/
def Obligations.IllFormedRegionRefusesTheEvent : Prop :=
  ∀ (s : State) (q : FetchRequest) (x : Fin 4), s.fetchesNext q → q.msrIr = true →
    regionOn s.spr x = true → wellFormedRegion s.spr x = false → step s = .refused .illFormedRegion

/-- 20_memory.md section 3 (R47, this spec's decision D16): the 12 low address bits never matter to protection. -/
def Obligations.LowAddressBitsNeverMatterToProtection : Prop :=
  ∀ (f : SprFile) (ea ea' : Word) (priv : Priv) (msrIr : Bool), ea.toNat / 4096 = ea'.toNat / 4096 →
    impuCheck f ea priv msrIr = impuCheck f ea' priv msrIr

/-- 60_exceptions.md R172: whatever a step reports for an IMPU violation, SRR1 bits 1 and 10 are 0, bit 3 says guarded, bit 4 says
protected, and exactly one of the two is set. -/
def Obligations.ViolationReportSetsOneBit : Prop :=
  ∀ (s t : State) (e : FetchError), step s = .next t → t.out.error = some e → e.kind ≠ .relocGap →
    ∃ w, e.srr1 = some w ∧ manualBit w 1 = false ∧ manualBit w 10 = false ∧
      manualBit w 3 = decide (e.kind = .guardedStorage) ∧ manualBit w 4 = decide (e.kind = .protectedStorage) ∧
      manualBit w 3 ≠ manualBit w 4

/-- 60_exceptions.md sections 1 and 4 (R171, R172): a core whose fetch is a violation goes to 0x0000_1300 or 0xFFF0_1300 by MSR[IP], with the four
SRR1 bits set; registers, general registers and memory stay; with ETRE = 1 the vector's own fetch is mapped to IntMemBase +
0x0098, or + 0x8098 with OERC = 1. The excluded case, ETRE = 1 with MSR[IP] = 0, is R132's.
That the exception is taken in the step that fetches, and what the entry keeps, is the model's choice (log 10); that the violation
comes before a relocation gap is the spec's decision D27 (log 13). -/
def Obligations.CoreTakesTheImpuException : Prop :=
  ∀ (s : State) (v : Verdict), s.inputs = [] → s.clocksOff = false → s.stale = [] → s.core.mode.littleEndian = false →
    s.core.dp = false → (fieldEtre s.spr.bbcmcr = false ∨ s.core.mode.msrIp = true) →
    impuCheck s.spr s.core.pc s.core.mode.priv s.core.mode.msrIr = .ok v → v ≠ .allowed →
    ∃ t, step s = .next t ∧
      t.core.pc = (if s.core.mode.msrIp then 0xFFF01300 else 0x00001300) ∧
      manualBit t.core.srr1 1 = false ∧ manualBit t.core.srr1 10 = false ∧
      manualBit t.core.srr1 3 = decide (v = .guardedStorage) ∧ manualBit t.core.srr1 4 = decide (v = .protectedStorage) ∧
      t.spr = s.spr ∧ t.reservedOnes = s.reservedOnes ∧ (∀ k, readGpr t.core k = readGpr s.core k) ∧
      (∀ a, Memory.read t.mem a = Memory.read s.mem a) ∧
      (fieldEtre s.spr.bbcmcr = true →
        relocate t.spr t.core.pc = .mapped (Config.intMemBase + if fieldOerc s.spr.bbcmcr then 0x8098 else 0x0098) true)

/-! ### Relocation -/

/-- 42_exception_relocation.md section 2 (R122): with ETRE = 0 every address goes out unchanged and OERC has no effect. That this
holds of a debug port access is the model's choice (log 20), of a cancelled access that is delivered the spec's decision D26
(log 27). -/
def Obligations.RelocationOffChangesNothing : Prop :=
  ∀ (s : State) (q : FetchRequest), s.fetchesNext q → fieldEtre s.spr.bbcmcr = false →
    relocate s.spr q.ea = .mapped q.ea false ∧
    ∀ t u, step s = .next t → t.out.ubus = some u → u.addr = q.ea

/-- 42_exception_relocation.md R126: the reset vector maps to IntMemBase + 0x0008 for both values of OERC. -/
def Obligations.ResetVectorIgnoresOerc : Prop :=
  ∀ f : SprFile, fieldEtre f.bbcmcr = true →
    relocate f 0xFFF00100 = .mapped (Config.intMemBase + 0x0008) true ∧
    relocate f 0xFFF00200 = .mapped (Config.intMemBase + if fieldOerc f.bbcmcr then 0x8010 else 0x0010) true

/-- 42_exception_relocation.md R130: all 21 rows of Table 4-1, for both values of OERC. -/
def Obligations.VectorTableRowsAreMapped : Prop :=
  ∀ (f : SprFile), fieldEtre f.bbcmcr = true → ∀ row ∈ table41,
    relocate f (0xFFF#12 ++ row.issued) =
      .mapped (Config.intMemBase + (if fieldOerc f.bbcmcr then row.mapped1 else row.mapped0).zeroExtend 32) true

/-- 42_exception_relocation.md section 3 (R124, R125; for the 11 vectors Table 4-1 does not list it is this spec's decision D8,
log 18): the vector `i << 8` goes to `i << 3`, 0x8000 higher with OERC = 1 but for the reset vector. -/
def Obligations.VectorsMapEightBytesApart : Prop :=
  ∀ (f : SprFile) (i : Nat), i < 32 → fieldEtre f.bbcmcr = true →
    relocate f (BitVec.ofNat 32 (0xFFF00000 + 256 * i)) =
      .mapped (Config.intMemBase + BitVec.ofNat 32 (8 * i + if fieldOerc f.bbcmcr ∧ i ≠ 1 then 0x8000 else 0)) true

/-- 42_exception_relocation.md R127: with ETRE = 1 an allowed fetch of an address that falls between two entries is cancelled with
an exception. -/
def Obligations.FetchBetweenEntriesIsAnError : Prop :=
  ∀ (s : State) (q : FetchRequest), s.fetchesNext q → q.dp = false → fieldEtre s.spr.bbcmcr = true →
    impuCheck s.spr q.ea q.priv q.msrIr = .ok .allowed →
    0xFFF00000 ≤ q.ea.toNat → q.ea.toNat ≤ 0xFFF01FFF → q.ea.toNat % 256 ≠ 0 →
    relocate s.spr q.ea = .gap ∧
    ∃ t, step s = .next t ∧ t.out.error = some (fetchErrorOf .relocGap) ∧ ∀ u, t.out.ubus = some u → u.cancelled = true

/-- 60_exceptions.md section 1 (R174, this spec's decision D9; log 12): a core that fetches such an address faults. The access it
delivers, at the issued address and with that burst request, is the spec's decision D26 (40_modes_of_operation.md section 2,
log 27). -/
def Obligations.CoreFetchBetweenEntriesFaults : Prop :=
  ∀ s : State, s.inputs = [] → s.clocksOff = false → s.stale = [] → s.core.mode.littleEndian = false → s.core.dp = false →
    impuCheck s.spr s.core.pc s.core.mode.priv s.core.mode.msrIr = .ok .allowed → relocate s.spr s.core.pc = .gap →
    step s = .fault (.relocGap (if s.core.sc || s.core.pt then
      some { addr := s.core.pc, burst := fieldBe s.spr.bbcmcr, sc := s.core.sc, pt := s.core.pt, dp := false, cancelled := true }
      else none))

/-- 42_exception_relocation.md section 3 (R128, derived there): an address outside 0xFFF0_0000 to 0xFFF0_1FFF is untouched. -/
def Obligations.OutsideTheWindowIsUntouched : Prop :=
  ∀ (f : SprFile) (ea : Word), ea.toNat < 0xFFF00000 ∨ 0xFFF01FFF < ea.toNat → relocate f ea = .mapped ea false

/-! ### The Fetch event -/

/-- 40_modes_of_operation.md section 8 (R93, assembled there): a Fetch event that is not to the debug port, with its verdict `v`.
Its outputs are those of the pseudocode, and what it emits is pending. The address of a cancelled access and the order of a
violation before a gap are the spec's decisions D26 and D27 (log 27, log 13). -/
def Obligations.FetchFollowsItsPseudocode : Prop :=
  ∀ (s : State) (q : FetchRequest) (v : Verdict), s.fetchesNext q → q.dp = false →
    impuCheck s.spr q.ea q.priv q.msrIr = .ok v →
    ∃ t addr, step s = .next t ∧
      (relocate s.spr q.ea = .gap → addr = q.ea) ∧ (∀ a b, relocate s.spr q.ea = .mapped a b → addr = a) ∧
      t.out.ubus =
        (if v = .allowed ∧ relocate s.spr q.ea ≠ .gap then
          some { addr := addr, burst := fieldBe s.spr.bbcmcr, sc := q.sc, pt := q.pt, dp := false, cancelled := false }
        else if q.sc || q.pt then
          some { addr := addr, burst := fieldBe s.spr.bbcmcr, sc := q.sc, pt := q.pt, dp := false, cancelled := true }
        else none) ∧
      t.out.error =
        (match v with
        | .guardedStorage => some (fetchErrorOf .guardedStorage)
        | .protectedStorage => some (fetchErrorOf .protectedStorage)
        | .allowed => if relocate s.spr q.ea = .gap then some (fetchErrorOf .relocGap) else none) ∧
      t.pending = s.pending ++ t.out.ubus.toList

/-- 40_modes_of_operation.md section 2 (R83, R84): every access of a Fetch event, and of the core's own fetch, carries the three
attributes of the fetch, and the burst request exactly when BE = 1 and the fetch is not to the debug port. The burst request of a
delivered cancelled access is the spec's decision D26 (log 27); which register values the core's BE is read from is D12 (log 22). -/
def Obligations.AccessCarriesAttributesAndBurstRequest : Prop :=
  (∀ (s t : State) (q : FetchRequest) (u : UbusFetch), s.fetchesNext q → step s = .next t → t.out.ubus = some u →
    u.burst = (fieldBe s.spr.bbcmcr && !q.dp) ∧ u.sc = q.sc ∧ u.pt = q.pt ∧ u.dp = q.dp) ∧
  ∀ (s t : State) (u : UbusFetch), s.inputs = [] → step s = .next t → t.out.ubus = some u →
    u.burst = (fieldBe (fetchView s).bbcmcr && !s.core.dp) ∧ u.sc = s.core.sc ∧ u.pt = s.core.pt ∧ u.dp = s.core.dp

/-- 40_modes_of_operation.md section 5 (R88): in debug mode no access requests a burst, and a debug port fetch is given a meaning:
it goes on if no enabled region is ill-formed (log 20). -/
def Obligations.DebugFetchIsNeverABurst : Prop :=
  ∀ (s : State) (q : FetchRequest), s.fetchesNext q → operatesIn s (.fetch q) .debug = true →
    enabledRegionsWellFormed s.spr = true →
    ∃ t, step s = .next t ∧ ∀ u, t.out.ubus = some u → u.burst = false ∧ u.dp = true

/-- 40_modes_of_operation.md section 8 (R93, "State written: none"): a Fetch event changes no register, nothing of the core's side
and no byte of memory. -/
def Obligations.FetchChangesNoRegister : Prop :=
  ∀ (s t : State) (q : FetchRequest), s.fetchesNext q → step s = .next t →
    t.spr = s.spr ∧ t.reservedOnes = s.reservedOnes ∧ t.stale = s.stale ∧ t.core = s.core ∧ t.clocksOff = false ∧
    ∀ a, Memory.read t.mem a = Memory.read s.mem a

/-! ### Reset and standby -/

/-- 10_state.md R22, R27: Reset sets every bit of MI_GRA to 0 and BBCMCR to 0 but for ETRE, which takes ID[19]. -/
def Obligations.ResetSetsGlobalAndConfigRegisters : Prop :=
  ∀ (s : State) (id19 msrIp : Bool) (rest : List Event), s.inputs = .reset id19 msrIp :: rest →
    ∃ t, step s = .next t ∧ t.spr.miGra = 0 ∧ t.spr.bbcmcr = (if id19 then 0x00001000 else 0) ∧
      t.reservedOnes.miGra = 0 ∧ t.reservedOnes.bbcmcr = 0 ∧
      (∀ x, regionOn t.spr x = false) ∧ fieldPp t.spr.miGra = 0 ∧ fieldG t.spr.miGra = false ∧
      fieldBe t.spr.bbcmcr = false ∧ fieldEtre t.spr.bbcmcr = id19 ∧ fieldOerc t.spr.bbcmcr = false

/-- 70_reset_and_hazards.md section 1 (R190, R196), 10_state.md sections 3, 4 and 7: Reset keeps the eight region registers, drops
every pending access and ends standby (the spec's own choice there); no reserved position of any register then counts as written
with 1 (R28, decision D5; log 8). That memory stays is the model's choice (log 7). -/
def Obligations.ResetKeepsRegionsAndDropsPending : Prop :=
  ∀ (s : State) (id19 msrIp : Bool) (rest : List Event), s.inputs = .reset id19 msrIp :: rest →
    ∃ t, step s = .next t ∧ (∀ x, t.spr.rba x = s.spr.rba x ∧ t.spr.ra x = s.spr.ra x) ∧
      (∀ n, t.reservedOnes.get n = 0) ∧ t.pending = [] ∧ t.clocksOff = false ∧ t.inputs = rest ∧ ∀ a, Memory.read t.mem a = Memory.read s.mem a

/-- 70_reset_and_hazards.md section 1 (R195, derived there): the core's first fetch after reset is at the system reset vector, is
allowed, is no burst, and is mapped to IntMemBase + 0x0008 with ID[19] = 1 and MSR[IP] = 1. That the core starts there, as
supervisor with MSR[IR] = 0, is log 6; that Reset keeps its fetch attributes is the model's choice (log 7). -/
def Obligations.FirstFetchAfterReset : Prop :=
  ∀ (s : State) (id19 msrIp : Bool) (rest : List Event), s.inputs = .reset id19 msrIp :: rest → s.core.dp = false →
    ∃ t, step s = .next t ∧
      coreFetch t = .ok (.forwarded
        { addr := if msrIp then (if id19 then Config.intMemBase + 0x0008 else 0xFFF00100) else 0x00000100
          burst := false, sc := s.core.sc, pt := s.core.pt, dp := false, cancelled := false })

/-- 70_reset_and_hazards.md section 1 (R194, derived there): a region turned on again after a reset without reprogramming is the
region from before the reset. -/
def Obligations.RegionSurvivesReset : Prop :=
  ∀ (s : State) (id19 msrIp : Bool) (v : Word) (rest : List Event) (x : Fin 4),
    s.inputs = .reset id19 msrIp :: .mtSpr 528 v .supervisor :: rest → manualBit v x.val = true →
    ∃ t u, step s = .next t ∧ regionOn t.spr x = false ∧ step t = .next u ∧ regionOn u.spr x = true ∧
      regionBase u.spr x = regionBase s.spr x ∧ fieldRs (u.spr.ra x) = fieldRs (s.spr.ra x) ∧
      attrsOf (u.spr.ra x) = attrsOf (s.spr.ra x)

/-- 40_modes_of_operation.md section 6 (R89, R90; that registers are kept is this spec's decision D22, log 24): StandbyEnter turns
the clocks off and is refused while an access is pending (U16, log 23); in standby the core issues nothing and no fetch is handled;
entering and leaving it change no register. That the core's side and memory stay is the model's choice (log 24). -/
def Obligations.StandbyIssuesNothingAndKeepsRegisters : Prop :=
  (∀ (s : State) (rest : List Event), s.inputs = .standbyEnter :: rest →
    (s.pending = [] →
      ∃ t, step s = .next t ∧ t.clocksOff = true ∧ t.spr = s.spr ∧ t.reservedOnes = s.reservedOnes ∧ t.core = s.core ∧
        t.pending = [] ∧ t.inputs = rest ∧ ∀ a, Memory.read t.mem a = Memory.read s.mem a) ∧
    (s.pending ≠ [] → step s = .refused .pendingAtStandby)) ∧
  ∀ s : State, s.clocksOff = true →
    (s.inputs = [] → step s = .next { s with out := Output.none }) ∧
    (∀ q rest, s.inputs = .fetch q :: rest → step s = .refused .clocksOff) ∧
    (∀ rest, s.inputs = .standbyExit :: rest →
      ∃ t, step s = .next t ∧ t.clocksOff = false ∧ t.spr = s.spr ∧ t.reservedOnes = s.reservedOnes ∧ t.core = s.core ∧
        t.inputs = rest ∧ ∀ a, Memory.read t.mem a = Memory.read s.mem a)

/-- 10_state.md R22, R27 and 70_reset_and_hazards.md R190, R195: State.reset holds what the spec gives for the state after reset,
with ID[19] = 0 and MSR[IP] = 0, the inputs the model chose for it (log 5). Two clauses are the model's and not the spec's:
MSR[IR] = 0 is PRESUMED (log 6) and the empty memory a design choice (log 25). -/
def Obligations.ResetStateHoldsTheGivenValues : Prop :=
  State.reset.spr.miGra = 0 ∧ State.reset.spr.bbcmcr = 0 ∧ State.reset.pending = [] ∧ State.reset.clocksOff = false ∧
    State.reset.core.pc = 0x00000100 ∧ State.reset.core.mode.msrIr = false ∧ State.reset.mem = []

/-! ### Memory -/

/-- 20_memory.md section 1 (R40), log 25: a byte of memory that changes reads as the new byte, and every other byte as before; no
register changes. -/
def Obligations.MemoryByteChangesAlone : Prop :=
  ∀ (s : State) (a : Word) (b : Byte) (rest : List Event), s.inputs = .memWrite a b :: rest →
    ∃ t, step s = .next t ∧ Memory.read t.mem a.toNat = some b ∧
      (∀ k, k ≠ a.toNat → Memory.read t.mem k = Memory.read s.mem k) ∧ t.spr = s.spr ∧ t.core = s.core

/-! ### Invariants and whole-machine rules -/

/-- Every step keeps the invariant: memory canonical (log 25), nothing kept in reserved positions (10_state.md section 7), the
remembered ones in reserved positions only, nothing pending in standby (40_modes_of_operation.md section 6), no pending burst to
the debug port (section 5), no pending cancelled access without an attribute that asks for delivery (section 2). -/
def Obligations.StepKeepsTheInvariant : Prop :=
  ∀ s t : State, s.Inv → step s = .next t → t.Inv

/-- The invariant holds at State.reset. -/
def Obligations.ResetStateMeetsTheInvariant : Prop := State.reset.Inv

/-- 60_exceptions.md section 6, 43_spr_access.md section 1: a core in user mode cannot change a register of the module by running
an instruction, whatever the instruction is, in a cycle with no event left or in one that an event asks for. That a refused access
leaves the module's state is the spec's decision D17 (log 31). -/
def Obligations.UserCoreCannotChangeRegisters : Prop :=
  ∀ s t : State, (s.inputs = [] ∨ ∃ rest, s.inputs = .coreCycle :: rest) → s.core.mode.priv = .user → step s = .next t →
    t.spr = s.spr ∧ t.reservedOnes = s.reservedOnes

/-- 10_state.md section 2, 40_modes_of_operation.md section 6: the registers change only by a supervisor's write (an MtSpr
event, or a core's cycle in supervisor mode that runs an mtspr) or by reset. That entering and leaving standby keep them is the
spec's decision D22 (log 24). -/
def Obligations.OnlySupervisorWritesAndResetChangeRegisters : Prop :=
  ∀ s t : State, step s = .next t → t.spr ≠ s.spr →
    (∃ n v rest, s.inputs = .mtSpr n v .supervisor :: rest ∧ (sprOfNumber n).isSome = true) ∨
    (∃ id19 msrIp rest, s.inputs = .reset id19 msrIp :: rest) ∨
    (∃ rest n r u, (s.inputs = [] ∧ rest = [] ∨ s.inputs = .coreCycle :: rest) ∧ s.core.mode.priv = .supervisor ∧
      s.clocksOff = false ∧ fetchInstr (freshOutput { s with inputs := rest }) = .run (Instr.mtspr n r) u)

/-- 41_impu_fetch_check.md section 2, 42_exception_relocation.md section 3: protection is sound. If a core's step puts an access
on the U-bus that is not cancelled, the IMPU allowed the address the core issued, and the access goes where relocation sends it.
That the issued and not the relocated address is checked is the spec's decision D10 (log 16). -/
def Obligations.ForwardedCoreFetchWasAllowed : Prop :=
  ∀ (s t : State) (u : UbusFetch), s.inputs = [] → s.core.dp = false → step s = .next t → t.out.ubus = some u →
    u.cancelled = false →
    impuCheck (fetchView s) s.core.pc s.core.mode.priv s.core.mode.msrIr = .ok .allowed ∧
      ∃ b, relocate (fetchView s) s.core.pc = .mapped u.addr b

/-! ### Little-endian operation -/

/-- 20_memory.md section 2 (R44 to R46, this spec's decision D15; log 21): in little-endian operation a fetch is refused while
BE = 1, and from internal memory: an entry of the branch table, or the first 8 Kbytes from IntMemBase however addressed
(42_exception_relocation.md R128, R131); with BE = 0 any other goes on, as a single access to the same address. The core's own
cycle is refused in the same cases, by the register values its fetch is handled under (log 22). -/
def Obligations.LittleEndianFetchIsRefusedOrGoesOn : Prop :=
  (∀ (s : State) (q : FetchRequest) (rest : List Event), s.inputs = .fetch q :: rest → s.clocksOff = false →
    s.core.mode.littleEndian = true →
    (fieldBe s.spr.bbcmcr = true → step s = .refused .littleEndian) ∧
    ∀ (a : Word) (inTable : Bool), q.dp = false → relocate s.spr q.ea = .mapped a inTable →
      (inTable = true ∨ (a - Config.intMemBase).toNat < 0x2000 → step s = .refused .littleEndian) ∧
      ∀ v, fieldBe s.spr.bbcmcr = false → impuCheck s.spr q.ea q.priv q.msrIr = .ok v →
        (isInternal a = true ∧ step s = .refused .littleEndian) ∨
        (isInternal a = false ∧ ∃ t, step s = .next t ∧ (v = .allowed ↔ t.out.error = none) ∧
          (v = .allowed → t.out.ubus =
            some { addr := a, burst := false, sc := q.sc, pt := q.pt, dp := false, cancelled := false }))) ∧
  ∀ s : State, s.inputs = [] → s.clocksOff = false → s.core.mode.littleEndian = true →
    (fieldBe (fetchView s).bbcmcr = true → step s = .refused .littleEndian) ∧
    ∀ (a : Word) (inTable : Bool), s.core.dp = false → relocate (fetchView s) s.core.pc = .mapped a inTable →
      (inTable = true ∨ (a - Config.intMemBase).toNat < 0x2000) → step s = .refused .littleEndian
end

