-- ==== Sys2Proof/Laws/Memory.lean ====
section
/-! SUPPORT. Memory: a read after a write, and that every memory operation keeps the canonical form. -/

namespace Sys2Proof.Machine

namespace Memory

@[simp] theorem read_nil (k : Nat) : Memory.read [] k = none := rfl

@[simp] theorem wf_nil : Memory.wf [] = true := rfl

/-- Reading the byte just written. -/
@[simp] theorem read_write_self (m : Memory) (k : Nat) (y : Byte) : (m.write k y).read k = some y := by
  induction m with
  | nil => simp [Memory.write, Memory.read]
  | cons c rest ih =>
    obtain ⟨a, x⟩ := c
    simp only [Memory.write]
    split
    · simp [Memory.read]
    · split
      · simp [Memory.read]
      · rename_i h
        simp only [Memory.read, if_neg h, ih]

/-- A write leaves every other byte alone. -/
theorem read_write_ne (m : Memory) {k j : Nat} (y : Byte) (h : j ≠ k) : (m.write k y).read j = m.read j := by
  induction m with
  | nil => simp [Memory.write, Memory.read, h]
  | cons c rest ih =>
    obtain ⟨a, x⟩ := c
    simp only [Memory.write]
    split
    · simp [Memory.read, h]
    · split
      · rename_i e
        subst e
        simp [Memory.read, h]
      · simp only [Memory.read, ih]

/-- The canonical form of a list with a head: its address is small enough and lies below the next, whose tail is canonical. -/
theorem wf_cons (a : Nat) (x : Byte) (rest : Memory) :
    Memory.wf ((a, x) :: rest) = true ↔ a < 2 ^ 32 ∧ (∀ b y, rest.head? = some (b, y) → a < b) ∧ Memory.wf rest = true := by
  cases rest with
  | nil => simp [Memory.wf]
  | cons c tail =>
    obtain ⟨b, y⟩ := c
    simp only [Memory.wf, Bool.and_eq_true, decide_eq_true_eq, List.head?_cons, Option.some.injEq, Prod.mk.injEq]
    constructor
    · rintro ⟨hab, hw⟩
      have hb : b < 2 ^ 32 := by
        cases tail with
        | nil => simpa [Memory.wf] using hw
        | cons d t =>
          have go : ∀ (l : Memory) (p : Nat) (z : Byte), Memory.wf ((p, z) :: l) = true → p < 2 ^ 32 := by
            intro l
            induction l with
            | nil => intro p z h; simpa [Memory.wf] using h
            | cons e l ih =>
              intro p z h
              obtain ⟨q, w⟩ := e
              simp only [Memory.wf, Bool.and_eq_true, decide_eq_true_eq] at h
              exact lt_trans h.1 (ih q w h.2)
          exact go _ b y hw
      exact ⟨lt_trans hab hb, fun _ _ h => h.1 ▸ hab, hw⟩
    · rintro ⟨-, h, hw⟩
      exact ⟨h b y ⟨rfl, rfl⟩, hw⟩

/-- The lowest address of memory after a write is the written one or the lowest before. -/
theorem head_write (m : Memory) (k : Nat) (y : Byte) (b : Nat) (z : Byte) (h : (m.write k y).head? = some (b, z)) :
    b = k ∨ ∃ z', m.head? = some (b, z') := by
  cases m with
  | nil => simp [Memory.write] at h; exact .inl h.1.symm
  | cons c rest =>
    obtain ⟨a, x⟩ := c
    simp only [Memory.write] at h
    split at h
    · simp at h; exact .inl h.1.symm
    · split at h
      · simp at h; exact .inl h.1.symm
      · simp at h; exact .inr ⟨x, by simp [h.1]⟩

/-- A write keeps the canonical form. -/
theorem wf_write (m : Memory) {k : Nat} (y : Byte) (hk : k < 2 ^ 32) (hm : Memory.wf m = true) :
    Memory.wf (m.write k y) = true := by
  induction m with
  | nil => simpa [Memory.write, Memory.wf] using hk
  | cons c rest ih =>
    obtain ⟨a, x⟩ := c
    obtain ⟨ha, hlt, hrest⟩ := (wf_cons a x rest).1 hm
    simp only [Memory.write]
    split
    · rename_i hka
      exact (wf_cons _ _ _).2 ⟨hk, by rintro b z ⟨⟩; exact hka, hm⟩
    · split
      · rename_i e
        subst e
        exact (wf_cons _ _ _).2 ⟨hk, hlt, hrest⟩
      · rename_i h1 h2
        refine (wf_cons _ _ _).2 ⟨ha, ?_, ih hrest⟩
        intro b z h
        rcases head_write rest k y b z h with rfl | ⟨z', h'⟩
        · omega
        · exact hlt b z' h'

end Memory

theorem byteKey_lt (a : Word) (k : Nat) : byteKey a k < 2 ^ 32 := (a + BitVec.ofNat 32 k).isLt

/-- The four bytes of an access have four different keys, also where the addresses wrap. -/
theorem byteKey_ne (a : Word) {j k : Nat} (hj : j < 4) (hk : k < 4) (h : j ≠ k) : byteKey a j ≠ byteKey a k := by
  simp only [byteKey]
  bv_omega

/-- Storing bytes keeps the canonical form. -/
theorem wf_writeBytesFrom (bytes : List Byte) (m : Memory) (a : Word) (k : Nat) (hm : Memory.wf m = true) :
    Memory.wf (writeBytesFrom m a k bytes) = true := by
  induction bytes generalizing m k with
  | nil => exact hm
  | cons b rest ih => exact ih _ _ (Memory.wf_write m b (byteKey_lt a k) hm)

/-- Reading back four bytes just stored. -/
theorem readBytes_writeBytesFrom (m : Memory) (a : Word) (b0 b1 b2 b3 : Byte) :
    readBytes (writeBytesFrom m a 0 [b0, b1, b2, b3]) a = some [b0, b1, b2, b3] := by
  have ne : ∀ {j k : Nat}, j < 4 → k < 4 → j ≠ k → byteKey a j ≠ byteKey a k := fun hj hk h => byteKey_ne a hj hk h
  simp only [readBytes, writeBytesFrom, Nat.zero_add]
  rw [Memory.read_write_ne _ _ (ne (j := 0) (k := 3) (by decide) (by decide) (by decide)),
    Memory.read_write_ne _ _ (ne (j := 0) (k := 1 + 1) (by decide) (by decide) (by decide)),
    Memory.read_write_ne _ _ (ne (j := 0) (k := 1) (by decide) (by decide) (by decide)), Memory.read_write_self,
    Memory.read_write_ne _ _ (ne (j := 1) (k := 1 + 1 + 1) (by decide) (by decide) (by decide)),
    Memory.read_write_ne _ _ (ne (j := 1) (k := 1 + 1) (by decide) (by decide) (by decide)), Memory.read_write_self,
    Memory.read_write_ne _ _ (ne (j := 2) (k := 1 + 1 + 1) (by decide) (by decide) (by decide)), Memory.read_write_self,
    Memory.read_write_self]

end Sys2Proof.Machine
end

