-- ==== Sys2Proof/Laws/State.lean ====
section
/-! SUPPORT. One lemma for each field of the state under each named update, so that no later proof unfolds an update. -/

namespace Sys2Proof.Machine

section advancePc

variable (s : State)

@[simp] theorem advancePc_spr : (advancePc s).spr = s.spr := rfl
@[simp] theorem advancePc_reservedOnes : (advancePc s).reservedOnes = s.reservedOnes := rfl
@[simp] theorem advancePc_stale : (advancePc s).stale = s.stale := rfl
@[simp] theorem advancePc_pending : (advancePc s).pending = s.pending := rfl
@[simp] theorem advancePc_clocksOff : (advancePc s).clocksOff = s.clocksOff := rfl
@[simp] theorem advancePc_core : (advancePc s).core = { s.core with pc := s.core.pc + 4 } := rfl
@[simp] theorem advancePc_mem : (advancePc s).mem = s.mem := rfl
@[simp] theorem advancePc_inputs : (advancePc s).inputs = s.inputs := rfl
@[simp] theorem advancePc_out : (advancePc s).out = s.out := rfl
@[simp] theorem advancePc_ctr : (advancePc s).ctr = s.ctr := rfl

end advancePc

section storeSpr

variable (n : SprName) (v : Word) (s : State)

@[simp] theorem storeSpr_spr : (storeSpr n v s).spr = s.spr.set n (v &&& namedMask n) := rfl
@[simp] theorem storeSpr_reservedOnes : (storeSpr n v s).reservedOnes = s.reservedOnes.set n (s.reservedOnes.get n ||| (v &&& reservedMask n)) := rfl
@[simp] theorem storeSpr_stale : (storeSpr n v s).stale = s.spr :: s.stale := rfl
@[simp] theorem storeSpr_pending : (storeSpr n v s).pending = s.pending := rfl
@[simp] theorem storeSpr_clocksOff : (storeSpr n v s).clocksOff = s.clocksOff := rfl
@[simp] theorem storeSpr_core : (storeSpr n v s).core = s.core := rfl
@[simp] theorem storeSpr_mem : (storeSpr n v s).mem = s.mem := rfl
@[simp] theorem storeSpr_inputs : (storeSpr n v s).inputs = s.inputs := rfl
@[simp] theorem storeSpr_out : (storeSpr n v s).out = { s.out with slave := some (slaveAccess n .write) } := rfl
@[simp] theorem storeSpr_ctr : (storeSpr n v s).ctr = s.ctr := rfl

end storeSpr

section loadSpr

variable (n : SprName) (s : State)

@[simp] theorem loadSpr_spr : (loadSpr n s).spr = s.spr := rfl
@[simp] theorem loadSpr_reservedOnes : (loadSpr n s).reservedOnes = s.reservedOnes := rfl
@[simp] theorem loadSpr_stale : (loadSpr n s).stale = s.stale := rfl
@[simp] theorem loadSpr_pending : (loadSpr n s).pending = s.pending := rfl
@[simp] theorem loadSpr_clocksOff : (loadSpr n s).clocksOff = s.clocksOff := rfl
@[simp] theorem loadSpr_core : (loadSpr n s).core = s.core := rfl
@[simp] theorem loadSpr_mem : (loadSpr n s).mem = s.mem := rfl
@[simp] theorem loadSpr_inputs : (loadSpr n s).inputs = s.inputs := rfl
@[simp] theorem loadSpr_out : (loadSpr n s).out = { s.out with slave := some (slaveAccess n .read), data := some (sprValue n s) } := rfl
@[simp] theorem loadSpr_ctr : (loadSpr n s).ctr = s.ctr + 1 := rfl

end loadSpr

section resetModule

variable (a b : Bool) (s : State)

@[simp] theorem resetModule_spr : (resetModule a b s).spr = { s.spr with miGra := 0, bbcmcr := (BitVec.ofBool a).zeroExtend 32 <<< 12 } := rfl
@[simp] theorem resetModule_reservedOnes : (resetModule a b s).reservedOnes = SprFile.zero := rfl
@[simp] theorem resetModule_stale : (resetModule a b s).stale = [] := rfl
@[simp] theorem resetModule_pending : (resetModule a b s).pending = [] := rfl
@[simp] theorem resetModule_clocksOff : (resetModule a b s).clocksOff = false := rfl
@[simp] theorem resetModule_core : (resetModule a b s).core = resetCore b s.core := rfl
@[simp] theorem resetModule_mem : (resetModule a b s).mem = s.mem := rfl
@[simp] theorem resetModule_inputs : (resetModule a b s).inputs = s.inputs := rfl
@[simp] theorem resetModule_out : (resetModule a b s).out = s.out := rfl
@[simp] theorem resetModule_ctr : (resetModule a b s).ctr = s.ctr := rfl

end resetModule

section freshOutput

variable (s : State)

@[simp] theorem freshOutput_spr : (freshOutput s).spr = s.spr := rfl
@[simp] theorem freshOutput_reservedOnes : (freshOutput s).reservedOnes = s.reservedOnes := rfl
@[simp] theorem freshOutput_stale : (freshOutput s).stale = s.stale := rfl
@[simp] theorem freshOutput_pending : (freshOutput s).pending = s.pending := rfl
@[simp] theorem freshOutput_clocksOff : (freshOutput s).clocksOff = s.clocksOff := rfl
@[simp] theorem freshOutput_core : (freshOutput s).core = s.core := rfl
@[simp] theorem freshOutput_mem : (freshOutput s).mem = s.mem := rfl
@[simp] theorem freshOutput_inputs : (freshOutput s).inputs = s.inputs := rfl
@[simp] theorem freshOutput_out : (freshOutput s).out = Output.none := rfl
@[simp] theorem freshOutput_ctr : (freshOutput s).ctr = s.ctr := rfl

end freshOutput

section readyForCycle

variable (s : State)

@[simp] theorem readyForCycle_spr : (readyForCycle s).spr = s.spr := rfl
@[simp] theorem readyForCycle_reservedOnes : (readyForCycle s).reservedOnes = s.reservedOnes := rfl
@[simp] theorem readyForCycle_stale : (readyForCycle s).stale = s.stale := rfl
@[simp] theorem readyForCycle_pending : (readyForCycle s).pending = s.pending := rfl
@[simp] theorem readyForCycle_clocksOff : (readyForCycle s).clocksOff = false := rfl
@[simp] theorem readyForCycle_core : (readyForCycle s).core = s.core := rfl
@[simp] theorem readyForCycle_mem : (readyForCycle s).mem = s.mem := rfl
@[simp] theorem readyForCycle_inputs : (readyForCycle s).inputs = [] := rfl
@[simp] theorem readyForCycle_out : (readyForCycle s).out = s.out := rfl
@[simp] theorem readyForCycle_ctr : (readyForCycle s).ctr = s.ctr := rfl

end readyForCycle

section writeGpr

variable (c : CoreSide) (r : Nat) (v : Word)

@[simp] theorem writeGpr_gpr : (writeGpr c r v).gpr = c.gpr.setIfInBounds r v := rfl
@[simp] theorem writeGpr_pc : (writeGpr c r v).pc = c.pc := rfl
@[simp] theorem writeGpr_mode : (writeGpr c r v).mode = c.mode := rfl
@[simp] theorem writeGpr_sc : (writeGpr c r v).sc = c.sc := rfl
@[simp] theorem writeGpr_pt : (writeGpr c r v).pt = c.pt := rfl
@[simp] theorem writeGpr_dp : (writeGpr c r v).dp = c.dp := rfl
@[simp] theorem writeGpr_srr1 : (writeGpr c r v).srr1 = c.srr1 := rfl

end writeGpr

section resetCore

variable (b : Bool) (c : CoreSide)

@[simp] theorem resetCore_gpr : (resetCore b c).gpr = c.gpr := rfl
@[simp] theorem resetCore_pc : (resetCore b c).pc = vectorAddr b 1 := rfl
@[simp] theorem resetCore_mode : (resetCore b c).mode = { priv := .supervisor, msrIr := false, msrIp := b, littleEndian := false } := rfl
@[simp] theorem resetCore_sc : (resetCore b c).sc = c.sc := rfl
@[simp] theorem resetCore_pt : (resetCore b c).pt = c.pt := rfl
@[simp] theorem resetCore_dp : (resetCore b c).dp = c.dp := rfl
@[simp] theorem resetCore_srr1 : (resetCore b c).srr1 = c.srr1 := rfl

end resetCore

section SprFile

variable (f : SprFile) (n m : SprName) (v : Word)

@[simp] theorem SprFile.get_set_self : (f.set n v).get n = v := by cases n <;> rfl

theorem SprFile.get_set_ne {n m : SprName} (h : m ≠ n) : (f.set n v).get m = f.get m := by
  cases n <;> cases m <;> first | rfl | exact absurd rfl h

@[simp] theorem SprFile.get_zero : SprFile.zero.get n = 0 := by cases n <;> rfl

@[simp] theorem SprFile.zero_miGra : SprFile.zero.miGra = 0 := rfl

@[simp] theorem SprFile.zero_bbcmcr : SprFile.zero.bbcmcr = 0 := rfl

/-- Two register files that agree on every register are equal. -/
theorem SprFile.ext_get {f g : SprFile} (h : ∀ n, f.get n = g.get n) : f = g := by
  cases f
  cases g
  simpa [SprFile.get] using
    And.intro (h .miRba0) ⟨h .miRba1, h .miRba2, h .miRba3, h .miRa0, h .miRa1, h .miRa2, h .miRa3, h .miGra, h .bbcmcr⟩

end SprFile

/-- A well-formed instruction's register number is below 32. -/
theorem wf_iff (i : Instr) : i.wf = true ↔ i.gprNumber < 32 := decide_eq_true_iff

section readGpr

variable (c : CoreSide) (r k : Nat) (v : Word)

theorem readGpr_of_lt {r : Nat} (h : r < 32) : readGpr c r = some c.gpr[r] := by simp [readGpr, h]

@[simp] theorem readGpr_writeGpr_self {r : Nat} (h : r < 32) : readGpr (writeGpr c r v) r = some v := by
  simp [readGpr, writeGpr, h]

theorem readGpr_writeGpr_ne {r k : Nat} (h : k ≠ r) : readGpr (writeGpr c r v) k = readGpr c k := by
  simp only [readGpr, writeGpr]
  rw [Vector.getElem?_setIfInBounds_ne (Ne.symm h)]

end readGpr

end Sys2Proof.Machine
end

