-- ==== Sys2Proof/Laws/Ops.lean ====
section
/-! SUPPORT. One lemma for each shared operation that says everything it can do; proofs cite these instead of unfolding. -/

namespace Sys2Proof.Machine

/-! ### Register files in canonical form -/

/-- A store keeps the named fields alone in the register file. -/
theorem SprFile.canonical_set {f : SprFile} (hf : f.canonical) (n : SprName) (v : Word) :
    (f.set n (v &&& namedMask n)).canonical := by
  intro m
  by_cases h : m = n
  · subst h
    rw [SprFile.get_set_self, reservedMask]
    ext i
    simp only [BitVec.getElem_and, BitVec.getElem_not]
    grind
  · rw [SprFile.get_set_ne _ _ h]
    exact hf m

/-- No register remembers a one after a reset. -/
theorem SprFile.reservedOnly_zero : SprFile.zero.reservedOnly := fun n => by simp

/-- A store remembers ones in reserved positions only. -/
theorem SprFile.reservedOnly_set {f : SprFile} (hf : f.reservedOnly) (n : SprName) (v : Word) :
    (f.set n (f.get n ||| (v &&& reservedMask n))).reservedOnly := by
  intro m
  by_cases h : m = n
  · subst h
    have hm := hf m
    rw [SprFile.get_set_self, reservedMask]
    ext i hi
    have := congrArg (fun w : Word => w[i]) hm
    simp only [BitVec.getElem_and, BitVec.getElem_or, BitVec.getElem_not] at this ⊢
    grind
  · rw [SprFile.get_set_ne _ _ h]
    exact hf m

/-! ### Taking an exception -/

/-- An exception is refused with ETRE = 1 and MSR[IP] = 0, and otherwise is taken: the core's pc, mode and SRR1 change, and the
draw is used up. -/
theorem takeException_cases (i : BitVec 5) (status : Option Word) (s : State) :
    (fieldEtre s.spr.bbcmcr = true ∧ s.core.mode.msrIp = false ∧ takeException i status s = .refused .relocationNeedsIp) ∨
    ((fieldEtre s.spr.bbcmcr = false ∨ s.core.mode.msrIp = true) ∧
      takeException i status s = .next
        { s with
          core := { s.core with pc := vectorAddr s.core.mode.msrIp i, mode := entryMode s.ctr, srr1 := srr1After status s.ctr }
          ctr := s.ctr + 1 }) := by
  unfold takeException
  cases fieldEtre s.spr.bbcmcr <;> cases s.core.mode.msrIp <;> simp

/-- If an exception is taken, this is the next state. -/
theorem takeException_next {i : BitVec 5} {status : Option Word} {s t : State} (h : takeException i status s = .next t) :
    t = { s with
          core := { s.core with pc := vectorAddr s.core.mode.msrIp i, mode := entryMode s.ctr, srr1 := srr1After status s.ctr }
          ctr := s.ctr + 1 } := by
  obtain ⟨-, -, e⟩ | ⟨-, e⟩ := takeException_cases i status s
  · rw [e] at h; cases h
  · rw [e] at h; cases h; rfl

/-! ### Register access -/

/-- What an access can come to. -/
theorem accessSpr_cases (priv : Priv) (s done : State) :
    (s.clocksOff = true ∧ accessSpr priv s done = .refused .clocksOff) ∨
    (s.clocksOff = false ∧ priv = .user ∧ accessSpr priv s done = .userSprFault) ∨
    (s.clocksOff = false ∧ priv = .supervisor ∧ accessSpr priv s done = .done done) := by
  unfold accessSpr
  cases s.clocksOff <;> cases priv <;> simp

/-- If mtspr goes on, either the supervisor's write happened or the user's exception was taken. -/
theorem mtsprOp_next {n : SprName} {r : Nat} {s t : State} (h : mtsprOp n r s = .next t) :
    (s.clocksOff = false ∧ s.core.mode.priv = .supervisor ∧ ∃ v, readGpr s.core r = some v ∧ t = advancePc (storeSpr n v s)) ∨
    (s.clocksOff = false ∧ s.core.mode.priv = .user ∧ takeUserSprFault s = .next t) := by
  unfold mtsprOp at h
  cases hv : readGpr s.core r with
  | none => simp [hv] at h
  | some v =>
    simp only [hv] at h
    obtain ⟨-, e⟩ | ⟨c, p, e⟩ | ⟨c, p, e⟩ := accessSpr_cases s.core.mode.priv s (storeSpr n v s) <;> rw [e] at h
    · cases h
    · exact .inr ⟨c, p, h⟩
    · cases h
      exact .inl ⟨c, p, v, rfl, rfl⟩

/-- If mfspr goes on, either the supervisor's read happened or the user's exception was taken. -/
theorem mfsprOp_next {n : SprName} {r : Nat} {s t : State} (h : mfsprOp n r s = .next t) :
    (s.clocksOff = false ∧ s.core.mode.priv = .supervisor ∧
      t = advancePc { loadSpr n s with core := writeGpr s.core r (sprValue n s) }) ∨
    (s.clocksOff = false ∧ s.core.mode.priv = .user ∧ takeUserSprFault s = .next t) := by
  unfold mfsprOp at h
  cases hv : readGpr s.core r with
  | none => simp [hv] at h
  | some v =>
    simp only [hv] at h
    obtain ⟨-, e⟩ | ⟨c, p, e⟩ | ⟨c, p, e⟩ := accessSpr_cases s.core.mode.priv s (loadSpr n s) <;> rw [e] at h
    · cases h
    · exact .inr ⟨c, p, h⟩
    · cases h
      exact .inl ⟨c, p, rfl⟩

/-- Every instruction is one of the two shared operations. -/
theorem exec_cases (i : Instr) (s : State) :
    (∃ n r, i = Instr.mtspr n r ∧ exec i s = mtsprOp n r s) ∨ (∃ n r, i = Instr.mfspr n r ∧ exec i s = mfsprOp n r s) := by
  cases i <;> first
    | exact .inl ⟨_, _, rfl, rfl⟩
    | exact .inl ⟨.miRba0, _, rfl, rfl⟩ | exact .inl ⟨.miRba1, _, rfl, rfl⟩ | exact .inl ⟨.miRba2, _, rfl, rfl⟩
    | exact .inl ⟨.miRba3, _, rfl, rfl⟩ | exact .inl ⟨.miRa0, _, rfl, rfl⟩ | exact .inl ⟨.miRa1, _, rfl, rfl⟩
    | exact .inl ⟨.miRa2, _, rfl, rfl⟩ | exact .inl ⟨.miRa3, _, rfl, rfl⟩ | exact .inl ⟨.miGra, _, rfl, rfl⟩
    | exact .inl ⟨.bbcmcr, _, rfl, rfl⟩
    | exact .inr ⟨.miRba0, _, rfl, rfl⟩ | exact .inr ⟨.miRba1, _, rfl, rfl⟩ | exact .inr ⟨.miRba2, _, rfl, rfl⟩
    | exact .inr ⟨.miRba3, _, rfl, rfl⟩ | exact .inr ⟨.miRa0, _, rfl, rfl⟩ | exact .inr ⟨.miRa1, _, rfl, rfl⟩
    | exact .inr ⟨.miRa2, _, rfl, rfl⟩ | exact .inr ⟨.miRa3, _, rfl, rfl⟩ | exact .inr ⟨.miGra, _, rfl, rfl⟩
    | exact .inr ⟨.bbcmcr, _, rfl, rfl⟩

theorem exec_mtspr (n : SprName) (r : Nat) (s : State) : exec (Instr.mtspr n r) s = mtsprOp n r s := by cases n <;> rfl

theorem exec_mfspr (n : SprName) (r : Nat) (s : State) : exec (Instr.mfspr n r) s = mfsprOp n r s := by cases n <;> rfl

theorem sprOfNumber_sprNumber (n : SprName) : sprOfNumber (sprNumber n) = some n := by cases n <;> decide

/-- If the MtSpr event goes on, its number is one of the ten, and either the write happened or UserSprFault is reported. -/
theorem handleMtSpr_next {n : BitVec 10} {v : Word} {priv : Priv} {s t : State} (h : handleMtSpr n v priv s = .next t) :
    ∃ r, sprOfNumber n = some r ∧ s.clocksOff = false ∧
      ((priv = .supervisor ∧ t = storeSpr r v s) ∨ (priv = .user ∧ t = { s with out := { s.out with userSprFault := true } })) := by
  unfold handleMtSpr at h
  cases hr : sprOfNumber n with
  | none => simp [hr] at h
  | some r =>
    simp only [hr] at h
    obtain ⟨-, e⟩ | ⟨c, p, e⟩ | ⟨c, p, e⟩ := accessSpr_cases priv s (storeSpr r v s) <;>
      rw [e] at h <;> simp only [accessEvent] at h <;> cases h
    · exact ⟨r, rfl, c, .inr ⟨p, rfl⟩⟩
    · exact ⟨r, rfl, c, .inl ⟨p, rfl⟩⟩

/-- If the MfSpr event goes on, its number is one of the ten, and either the read happened or UserSprFault is reported. -/
theorem handleMfSpr_next {n : BitVec 10} {priv : Priv} {s t : State} (h : handleMfSpr n priv s = .next t) :
    ∃ r, sprOfNumber n = some r ∧ s.clocksOff = false ∧
      ((priv = .supervisor ∧ t = loadSpr r s) ∨ (priv = .user ∧ t = { s with out := { s.out with userSprFault := true } })) := by
  unfold handleMfSpr at h
  cases hr : sprOfNumber n with
  | none => simp [hr] at h
  | some r =>
    simp only [hr] at h
    obtain ⟨-, e⟩ | ⟨c, p, e⟩ | ⟨c, p, e⟩ := accessSpr_cases priv s (loadSpr r s) <;>
      rw [e] at h <;> simp only [accessEvent] at h <;> cases h
    · exact ⟨r, rfl, c, .inr ⟨p, rfl⟩⟩
    · exact ⟨r, rfl, c, .inl ⟨p, rfl⟩⟩

/-! ### Fetching -/

/-- Every access a fetch issues is one the module may issue: no burst to the debug port, and cancelled only with an attribute
that asks for delivery. -/
theorem issuedAccesses_wellFormed (f : SprFile) (q : FetchRequest) (v : Verdict) (r : Reloc) :
    ∀ u ∈ issuedAccesses (decideFetch f q v r), u.wellFormed := by
  have hd : ∀ u ∈ (deliveredAccess f q r).toList, u.wellFormed := by
    intro u hu
    unfold deliveredAccess at hu
    split at hu
    · rename_i h
      obtain rfl : u = ubusAccess f q r true := by simpa using hu
      refine ⟨fun hdp => ?_, fun _ => by simpa [ubusAccess] using h⟩
      have : q.dp = true := hdp
      simp [ubusAccess, burstRequest, this]
    · simp at hu
  have hf : ∀ u ∈ [ubusAccess f q r false], u.wellFormed := by
    intro u hu
    obtain rfl : u = ubusAccess f q r false := by simpa using hu
    refine ⟨fun hdp => ?_, fun h => by simp [ubusAccess] at h⟩
    have : q.dp = true := hdp
    simp [ubusAccess, burstRequest, this]
  cases v <;> cases r <;> first | exact hd | exact hf

/-- Every entry of the branch table is an address the spec names as internal memory. -/
theorem namedInternal_of_inTable {f : SprFile} {ea a : Word} (h : relocate f ea = .mapped a true) : namedInternal a = true := by
  unfold relocate at h
  split at h
  · cases h
  · split at h
    · cases h
    · split at h
      · cases h
      · cases h
        have key : ∀ (o : Bool) (i : BitVec 5), (tableOffset o i).toNat < 0x2000 ∨
            (0x8000 ≤ (tableOffset o i).toNat ∧ (tableOffset o i).toNat < 0x8100) := by decide
        rcases key (fieldOerc f.bbcmcr) (vectorNumber ea) with k | k <;> simp [namedInternal, k]

/-- The entries of the branch table and the first 8 Kbytes from `IntMemBase` are internal memory. -/
theorem isInternal_of_named {f : SprFile} {ea a : Word} {inTable : Bool} (h : relocate f ea = .mapped a inTable)
    (hn : inTable = true ∨ (a - Config.intMemBase).toNat < 0x2000) : isInternal a = true := by
  have : namedInternal a = true := by
    rcases hn with rfl | hn
    · exact namedInternal_of_inTable h
    · unfold namedInternal
      rw [decide_eq_true hn, Bool.true_or]
  simp only [isInternal, this, Bool.true_or]

/-- In little-endian operation a fetch is refused with BE = 1 or from internal memory, and otherwise is as in big-endian. -/
theorem fetchAccess_littleEndian (f : SprFile) (k : Nat) (q : FetchRequest) :
    fetchAccess f true k q =
      if fieldBe f.bbcmcr || requestInternal q (requestReloc f k q) then .error .littleEndian else fetchAccess f false k q := by
  simp only [fetchAccess, Bool.true_and, Bool.false_and, Bool.false_eq_true, if_false]

/-- If a fetch has an outcome, a verdict and a relocation decided it. -/
theorem fetchAccess_ok {f : SprFile} {le : Bool} {k : Nat} {q : FetchRequest} {o : FetchOutcome}
    (h : fetchAccess f le k q = .ok o) :
    (le = true → fieldBe f.bbcmcr = false) ∧
      ∃ v, requestVerdict f k q = .ok v ∧ o = decideFetch f q v (requestReloc f k q) := by
  unfold fetchAccess at h
  split at h
  · cases h
  · rename_i hle
    cases hv : requestVerdict f k q with
    | error r => simp [hv] at h
    | ok v =>
      simp only [hv] at h
      cases h
      refine ⟨fun e => ?_, v, rfl, rfl⟩
      subst e
      cases hb : fieldBe f.bbcmcr <;> simp [hb] at hle ⊢

/-- If the Fetch event goes on, these are its outputs, and nothing but the pending list and the draw changes. -/
theorem handleFetch_next {q : FetchRequest} {s t : State} (h : handleFetch q s = .next t) :
    s.clocksOff = false ∧ ∃ o, fetchAccess s.spr s.core.mode.littleEndian s.ctr q = .ok o ∧
      t = { s with out := fetchOutput o s.out, pending := s.pending ++ issuedAccesses o, ctr := s.ctr + 1 } := by
  unfold handleFetch at h
  split at h
  · cases h
  · rename_i hc
    cases ho : fetchAccess s.spr s.core.mode.littleEndian s.ctr q with
    | error r => simp [ho] at h
    | ok o =>
      simp only [ho] at h
      cases h
      exact ⟨by simpa using hc, o, rfl, rfl⟩

/-- A cycle's fetch that comes to an instruction was forwarded, not to the debug port; the state differs in outputs and draw. -/
theorem fetchInstr_run {s s' : State} {i : Instr} (h : fetchInstr s = .run i s') :
    s.clocksOff = false ∧ ∃ u, coreFetch s = .ok (.forwarded u) ∧ u.dp = false ∧
      s' = { s with out := fetchOutput (.forwarded u) s.out, ctr := s.ctr + 1 } := by
  unfold fetchInstr answeredInstr at h
  split at h
  · cases h
  · rename_i hc
    refine ⟨by simpa using hc, ?_⟩
    split at h
    · cases h
    · rename_i u hu
      split at h
      · cases h
      · rename_i hdp
        split at h
        · cases h
        · split at h
          · cases h
          · cases h
            exact ⟨u, hu, by simpa using hdp, rfl⟩
    · cases h
    · cases h

/-- A cycle's fetch that ends the cycle in a next state is an exception taken for an IMPU violation. -/
theorem fetchInstr_ends_next {s t : State} (h : fetchInstr s = .ends (.next t)) :
    s.clocksOff = false ∧ ∃ kind d, kind ≠ .relocGap ∧ coreFetch s = .ok (.cancelled kind d) ∧
      takeException (fetchErrorOf kind).number (fetchErrorOf kind).srr1
        { s with
          out := fetchOutput (.cancelled kind d) s.out
          pending := s.pending ++ issuedAccesses (.cancelled kind d)
          ctr := s.ctr + 1 } = .next t := by
  unfold fetchInstr answeredInstr at h
  split at h
  · cases h
  · rename_i hc
    refine ⟨by simpa using hc, ?_⟩
    split at h
    · cases h
    · split at h
      · cases h
      · split at h
        · cases h
        · split at h <;> cases h
    · cases h
    · rename_i kind d hk hd
      exact ⟨kind, d, fun e => hk e, hd, by injection h⟩

/-- What the fetch of a core's cycle can come to, if the cycle goes on: an instruction to run, in a state that differs from the
one before in outputs and draw alone, or an exception taken for an IMPU violation. -/
theorem runFetched_next {s t : State} (h : runFetched (fetchInstr s) = .next t) :
    s.clocksOff = false ∧
    ((∃ u i, coreFetch s = .ok (.forwarded u) ∧ u.dp = false ∧
        exec i { s with out := fetchOutput (.forwarded u) s.out, ctr := s.ctr + 1 } = .next t) ∨
     (∃ kind d, kind ≠ .relocGap ∧ coreFetch s = .ok (.cancelled kind d) ∧
        takeException (fetchErrorOf kind).number (fetchErrorOf kind).srr1
          { s with
            out := fetchOutput (.cancelled kind d) s.out
            pending := s.pending ++ issuedAccesses (.cancelled kind d)
            ctr := s.ctr + 1 } = .next t)) := by
  cases hf : fetchInstr s with
  | run i s' =>
    rw [hf] at h
    obtain ⟨hc, u, hu, hdp, rfl⟩ := fetchInstr_run hf
    exact ⟨hc, .inl ⟨u, i, hu, hdp, h⟩⟩
  | ends r =>
    rw [hf] at h
    cases h
    obtain ⟨hc, he⟩ := fetchInstr_ends_next hf
    exact ⟨hc, .inr he⟩

/-- The outputs of the step before play no part in the core's fetch. -/
@[simp] theorem coreFetch_freshOutput (s : State) : coreFetch (freshOutput s) = coreFetch s := rfl

/-- A forwarded fetch that the bytes of an instruction answer runs that instruction. -/
theorem runFetched_forwarded {s : State} {u : UbusFetch} {bytes : List Byte} {i : Instr} {rest : List Byte}
    (hc : s.clocksOff = false) (hf : coreFetch s = .ok (.forwarded u)) (hd : u.dp = false)
    (hb : readBytes s.mem u.addr = some bytes)
    (hi : decodeBytes (instructionBytes s.core.mode.littleEndian bytes) = .ok (i, rest)) :
    runFetched (fetchInstr s) = exec i { s with out := fetchOutput (.forwarded u) s.out, ctr := s.ctr + 1 } := by
  simp only [fetchInstr, hc, hf, hd, answeredInstr, hb, hi, runFetched, Bool.false_eq_true, if_false]

/-- A debug port attribute off, a request is checked and relocated like every other. -/
theorem requestReloc_of_not_dp {f : SprFile} {k : Nat} {q : FetchRequest} (h : q.dp = false) :
    requestReloc f k q = relocate f q.ea := by
  unfold requestReloc
  split <;> simp_all

theorem requestVerdict_of_not_dp {f : SprFile} {k : Nat} {q : FetchRequest} (h : q.dp = false) :
    requestVerdict f k q = impuCheck f q.ea q.priv q.msrIr := by
  unfold requestVerdict
  split <;> simp_all

/-! ### A step -/

/-- With an event first, a step that handles it is its handling. -/
theorem step_event {s : State} {e : Event} {rest : List Event} {r : Result} (hi : s.inputs = e :: rest)
    (he : handleEvent e (freshOutput { s with inputs := rest }) = some r) : step s = r := by
  unfold step
  rw [hi]
  simp only [he]

/-- With no event left and the clocks on, a step is the core's own cycle. -/
theorem step_core {s : State} (hi : s.inputs = []) (hc : s.clocksOff = false) :
    step s = runFetched (fetchInstr (freshOutput s)) := by
  unfold step
  rw [hi]
  simp only [hc, Bool.false_eq_true, if_false]

/-- If a step goes on, it handled the next event, or ran a core's cycle, or idled in standby. -/
theorem step_next {s t : State} (h : step s = .next t) :
    (∃ e rest, s.inputs = e :: rest ∧ handleEvent e (freshOutput { s with inputs := rest }) = some (.next t)) ∨
    (∃ rest, s.inputs = .coreCycle :: rest ∧ runFetched (fetchInstr (freshOutput { s with inputs := rest })) = .next t) ∨
    (s.inputs = [] ∧ s.clocksOff = false ∧ runFetched (fetchInstr (freshOutput s)) = .next t) ∨
    (s.inputs = [] ∧ s.clocksOff = true ∧ t = freshOutput s) := by
  unfold step at h
  split at h
  · rename_i e rest hi
    split at h
    · rename_i r hr
      exact .inl ⟨e, rest, hi, by rw [hr, h]⟩
    · rename_i hn
      obtain rfl : e = .coreCycle := by cases e <;> simp [handleEvent] at hn ⊢
      exact .inr (.inl ⟨rest, hi, h⟩)
  · rename_i hi
    split at h
    · rename_i hc
      cases h
      exact .inr (.inr (.inr ⟨hi, hc, rfl⟩))
    · rename_i hc
      exact .inr (.inr (.inl ⟨hi, by simpa using hc, h⟩))

end Sys2Proof.Machine
end

