-- ==== Sys2Proof/Laws/PerInstr.lean ====
section
/-! SUPPORT. Facts about every instruction as syntax, one lemma for each constructor. -/

namespace Sys2Proof.Laws.TableRow

/-- The match word of an instruction's row in spec/opcode_table.json (30_encoding.md R64). -/
def matchWord : Instr → Word
  | .mtsprMiRba0 _ => 0x7C10C3A6
  | .mtsprMiRba1 _ => 0x7C11C3A6
  | .mtsprMiRba2 _ => 0x7C12C3A6
  | .mtsprMiRba3 _ => 0x7C13C3A6
  | .mtsprMiRa0 _ => 0x7C10CBA6
  | .mtsprMiRa1 _ => 0x7C11CBA6
  | .mtsprMiRa2 _ => 0x7C12CBA6
  | .mtsprMiRa3 _ => 0x7C13CBA6
  | .mtsprMiGra _ => 0x7C1083A6
  | .mtsprBbcmcr _ => 0x7C108BA6
  | .mfsprMiRba0 _ => 0x7C10C2A6
  | .mfsprMiRba1 _ => 0x7C11C2A6
  | .mfsprMiRba2 _ => 0x7C12C2A6
  | .mfsprMiRba3 _ => 0x7C13C2A6
  | .mfsprMiRa0 _ => 0x7C10CAA6
  | .mfsprMiRa1 _ => 0x7C11CAA6
  | .mfsprMiRa2 _ => 0x7C12CAA6
  | .mfsprMiRa3 _ => 0x7C13CAA6
  | .mfsprMiGra _ => 0x7C1082A6
  | .mfsprBbcmcr _ => 0x7C108AA6

/-- A well-formed instruction's word, under the row's mask, is the row's match word. -/
def Statement (i : Instr) : Prop := i.wf = true → encode i &&& 0xFC1FFFFF = matchWord i

/-- The statement from its check on all 32 register numbers. -/
theorem of_all {c : Nat → Instr} (hg : ∀ r, (c r).gprNumber = r)
    (h : ∀ r < 32, encode (c r) &&& 0xFC1FFFFF = matchWord (c r)) (r : Nat) : Statement (c r) := by
  intro hw
  refine h r ?_
  simpa [Instr.wf, hg, numGprs] using hw

theorem mtsprMiRba0 (r : Nat) : Statement (.mtsprMiRba0 r) := of_all (fun _ => rfl) (by decide) r

theorem mtsprMiRba1 (r : Nat) : Statement (.mtsprMiRba1 r) := of_all (fun _ => rfl) (by decide) r

theorem mtsprMiRba2 (r : Nat) : Statement (.mtsprMiRba2 r) := of_all (fun _ => rfl) (by decide) r

theorem mtsprMiRba3 (r : Nat) : Statement (.mtsprMiRba3 r) := of_all (fun _ => rfl) (by decide) r

theorem mtsprMiRa0 (r : Nat) : Statement (.mtsprMiRa0 r) := of_all (fun _ => rfl) (by decide) r

theorem mtsprMiRa1 (r : Nat) : Statement (.mtsprMiRa1 r) := of_all (fun _ => rfl) (by decide) r

theorem mtsprMiRa2 (r : Nat) : Statement (.mtsprMiRa2 r) := of_all (fun _ => rfl) (by decide) r

theorem mtsprMiRa3 (r : Nat) : Statement (.mtsprMiRa3 r) := of_all (fun _ => rfl) (by decide) r

theorem mtsprMiGra (r : Nat) : Statement (.mtsprMiGra r) := of_all (fun _ => rfl) (by decide) r

theorem mtsprBbcmcr (r : Nat) : Statement (.mtsprBbcmcr r) := of_all (fun _ => rfl) (by decide) r

theorem mfsprMiRba0 (r : Nat) : Statement (.mfsprMiRba0 r) := of_all (fun _ => rfl) (by decide) r

theorem mfsprMiRba1 (r : Nat) : Statement (.mfsprMiRba1 r) := of_all (fun _ => rfl) (by decide) r

theorem mfsprMiRba2 (r : Nat) : Statement (.mfsprMiRba2 r) := of_all (fun _ => rfl) (by decide) r

theorem mfsprMiRba3 (r : Nat) : Statement (.mfsprMiRba3 r) := of_all (fun _ => rfl) (by decide) r

theorem mfsprMiRa0 (r : Nat) : Statement (.mfsprMiRa0 r) := of_all (fun _ => rfl) (by decide) r

theorem mfsprMiRa1 (r : Nat) : Statement (.mfsprMiRa1 r) := of_all (fun _ => rfl) (by decide) r

theorem mfsprMiRa2 (r : Nat) : Statement (.mfsprMiRa2 r) := of_all (fun _ => rfl) (by decide) r

theorem mfsprMiRa3 (r : Nat) : Statement (.mfsprMiRa3 r) := of_all (fun _ => rfl) (by decide) r

theorem mfsprMiGra (r : Nat) : Statement (.mfsprMiGra r) := of_all (fun _ => rfl) (by decide) r

theorem mfsprBbcmcr (r : Nat) : Statement (.mfsprBbcmcr r) := of_all (fun _ => rfl) (by decide) r

end Sys2Proof.Laws.TableRow
end

