-- ==== Sys2Proof/Tests/Slice0.lean ====
section
/-! SUPPORT. The model's own tests. Expected results are the spec's (95_test_vectors.md, by vector id) or written out by hand from
its tables. `witness_<Name>` shows a state and operands that meet the hypotheses of `Obligations.<Name>`. -/

namespace Sys2Proof.Tests

open Sys2Proof Sys2Proof.Machine

/-! ### Helpers -/

/-- The state after reset with other registers, as the given privilege, with the given event next. -/
def stateWith (f : SprFile) (priv : Priv) (inputs : List Event) : State :=
  { State.reset with
    spr := f
    inputs := inputs
    core := { State.reset.core with mode := { State.reset.core.mode with priv := priv } } }

/-- The same with a value in x[3]. -/
def withX3 (v : Word) (s : State) : State := { s with core := writeGpr s.core 3 v }

/-- A fetch request without attributes. -/
def plain (ea : Word) (priv : Priv) (msrIr : Bool) : FetchRequest :=
  { ea := ea, priv := priv, msrIr := msrIr, sc := false, pt := false, dp := false }

/-- Only BBCMCR set. -/
def onlyConfig (v : Word) : SprFile := { SprFile.zero with bbcmcr := v }

/-- Configuration A of 95_test_vectors.md V1. -/
def configA : SprFile :=
  { miRba0 := 0x00401000, miRa0 := 0x00000840, miRba1 := 0x00400000, miRa1 := 0x003FF800, miRba2 := 0, miRa2 := 0x0000F400,
    miRba3 := 0, miRa3 := 0xFFFFF000, miGra := 0xE0000400, bbcmcr := 0 }

/-- Configuration B: region 3 on as well. -/
def configB : SprFile := { configA with miGra := 0xF0000400 }

/-- Region 0 alone, with the global PP = 11 (the corner cases VD of V1). -/
def region0 (rba ra : Word) : SprFile := { SprFile.zero with miRba0 := rba, miRa0 := ra, miGra := 0x80000C00 }

/-- The verdict, for tables of tests. -/
def verdictIs (f : SprFile) (v : Verdict) (ea : Word) (priv : Priv) (msrIr : Bool) : Bool :=
  match impuCheck f ea priv msrIr with
  | .ok w => w == v
  | .error _ => false

/-- The verdict is refused for an ill-formed region. -/
def refusesIllFormed (f : SprFile) (ea : Word) : Bool :=
  match impuCheck f ea .user true with
  | .ok _ => false
  | .error r => r == .illFormedRegion

/-- The register values after a step. -/
def sprAfter (s : State) : Option SprFile := (nextState (step s)).map State.spr

/-- The outputs of a step. -/
def outAfter (s : State) : Option Output := (nextState (step s)).map State.out

/-- A plain access record. -/
def access (addr : Word) (burst sc pt dp cancelled : Bool) : UbusFetch :=
  { addr := addr, burst := burst, sc := sc, pt := pt, dp := dp, cancelled := cancelled }

/-! ### Well-formedness: one check, an ill-formed term of each direction -/

theorem test_wf_refuses_mtspr_register_32 : (Instr.mtsprMiGra 32).wf = false := by decide
theorem test_wf_refuses_mfspr_register_32 : (Instr.mfsprBbcmcr 32).wf = false := by decide
theorem test_wf_accepts_register_31 : (Instr.mfsprBbcmcr 31).wf = true := by decide
theorem test_ill_formed_term_is_refused : (match exec (.mtsprMiGra 32) State.reset with
    | .refused r => r == .badRegister 32
    | _ => false) = true := by decide

/-! ### Decoding: words written out field by field, 31 | register | swapped SPR number | extended opcode | 0 (R63) -/

theorem test_decode_mtspr_miRa3_r9 : decodeWord 0b01111101001100111100101110100110 = .ok (.mtsprMiRa3 9) := by rfl
theorem test_decode_mfspr_bbcmcr_r31 : decodeWord 0b01111111111100001000101010100110 = .ok (.mfsprBbcmcr 31) := by rfl
theorem test_decode_VE1 : decodeWord 0x7C10C3A6 = .ok (.mtsprMiRba0 0) := by rfl
theorem test_decode_VE2 : decodeWord 0x7FF0C3A6 = .ok (.mtsprMiRba0 31) := by rfl
theorem test_decode_VE6 : decodeWord 0x7C90CBA6 = .ok (.mtsprMiRa0 4) := by rfl
theorem test_decode_VE_table : [decodeTableWord 32 0x7C11C3A6, decodeTableWord 32 0x7C12C3A6, decodeTableWord 32 0x7C13C3A6,
    decodeTableWord 32 0x7C11CBA6, decodeTableWord 32 0x7C12CBA6, decodeTableWord 32 0x7C1083A6, decodeTableWord 32 0x7C108BA6,
    decodeTableWord 32 0x7C10C2A6, decodeTableWord 32 0x7C11C2A6, decodeTableWord 32 0x7C12C2A6, decodeTableWord 32 0x7C13C2A6,
    decodeTableWord 32 0x7C10CAA6, decodeTableWord 32 0x7C11CAA6, decodeTableWord 32 0x7C12CAA6, decodeTableWord 32 0x7C13CAA6,
    decodeTableWord 32 0x7C1082A6] =
  [some (.mtsprMiRba1 0), some (.mtsprMiRba2 0), some (.mtsprMiRba3 0),
    some (.mtsprMiRa1 0), some (.mtsprMiRa2 0), some (.mtsprMiGra 0), some (.mtsprBbcmcr 0),
    some (.mfsprMiRba0 0), some (.mfsprMiRba1 0), some (.mfsprMiRba2 0), some (.mfsprMiRba3 0),
    some (.mfsprMiRa0 0), some (.mfsprMiRa1 0), some (.mfsprMiRa2 0), some (.mfsprMiRa3 0),
    some (.mfsprMiGra 0)] := by decide
theorem test_decode_reserved_bit : decodeWord 0x7C10C3A7 = .error .reservedBit := by rfl
theorem test_decode_spr_788 : decodeWord 0x7C14C3A6 = .error (.otherSpr 788) := by rfl
theorem test_decode_other_opcode : decodeWord 0x48000000 = .error .otherInstruction := by rfl
theorem test_decode_truncated : decodeBytes [0x7C, 0x10, 0xC3] = .error .truncated := by rfl
theorem test_encode_VE3 : encode (.mfsprBbcmcr 0) = 0x7C108AA6 := by decide
theorem test_swap_819 : ubAddr 819 = 0x2790 := by decide

/-! ### The IMPU check (V1) -/

theorem test_VA_guarded : [verdictIs configA .guardedStorage 0x00401000 .supervisor true,
    verdictIs configA .guardedStorage 0x00401FFC .user true] = [true, true] := by decide
theorem test_VA_allowed : [verdictIs configA .allowed 0x00402000 .user true, verdictIs configA .allowed 0x00400FFC .user true,
    verdictIs configA .allowed 0x007FFFFC .user true, verdictIs configA .allowed 0x00800000 .supervisor true,
    verdictIs configA .allowed 0x0000FFFC .supervisor true, verdictIs configA .allowed 0x00010000 .supervisor true,
    verdictIs configA .allowed 0x00401000 .user false, verdictIs configA .allowed 0x00800000 .user false].all id = true := by
  decide
theorem test_VA_protected : [verdictIs configA .protectedStorage 0x00800000 .user true,
    verdictIs configA .protectedStorage 0x0000FFFC .user true,
    verdictIs configA .protectedStorage 0x00010000 .user true].all id = true := by decide
theorem test_VB : [verdictIs configB .protectedStorage 0x00800000 .supervisor true,
    verdictIs configB .protectedStorage 0x00800000 .user true, verdictIs configB .guardedStorage 0x00401000 .supervisor true,
    verdictIs configB .allowed 0x00008000 .supervisor true, verdictIs configB .protectedStorage 0x00008000 .user true,
    verdictIs configB .protectedStorage 0xFFF01300 .supervisor true].all id = true := by decide
theorem test_VC : [verdictIs SprFile.zero .protectedStorage 0x100 .supervisor true,
    verdictIs SprFile.zero .protectedStorage 0x100 .user true, verdictIs SprFile.zero .allowed 0x100 .supervisor false,
    verdictIs SprFile.zero .allowed 0xFFF00100 .user false].all id = true := by decide
theorem test_VD1_exactly_one (v : Verdict) (h : impuCheck (region0 0x1000 0x40) 0x1000 .supervisor true = .ok v) :
    v = .guardedStorage ∨ v = .protectedStorage := by
  have e : impuCheck (region0 0x1000 0x40) 0x1000 .supervisor true =
      .ok (if Config.violationPriorityIsGuarded then .guardedStorage else .protectedStorage) := by rfl
  rw [e] at h
  cases Config.violationPriorityIsGuarded <;> simp at h <;> simp [← h]
theorem test_VD2a : verdictIs (region0 0x1000 0x440) .guardedStorage 0x1000 .supervisor true = true := by decide
theorem test_VD3 : refusesIllFormed (region0 0x00401000 0x0000F800) 0x1234 = true := by decide
theorem test_VD4 : refusesIllFormed (region0 0 0x00005800) 0x1234 = true := by decide
theorem test_VD5 : [verdictIs (region0 0 0xFFFFF800) .allowed 0xFFFFFFFC .user true,
    verdictIs (region0 0 0xFFFFF800) .allowed 0 .user true].all id = true := by decide
theorem test_VD6 : verdictIs { SprFile.zero with miGra := 0x00000C40 } .guardedStorage 0x1234 .supervisor true = true := by decide

/-! ### Relocation (V2) -/

theorem test_VR1 : relocate (onlyConfig 0x1800) 0xFFF00000 = .mapped (Config.intMemBase + 0x8000) true := by rfl
theorem test_VR2 : relocate (onlyConfig 0x1800) 0xFFF00100 = .mapped (Config.intMemBase + 0x0008) true := by rfl
theorem test_VR3 : relocate (onlyConfig 0x1000) 0xFFF00500 = .mapped (Config.intMemBase + 0x0028) true := by rfl
theorem test_VR6 : relocate (onlyConfig 0x1800) 0xFFF01F00 = .mapped (Config.intMemBase + 0x80F8) true := by rfl
theorem test_VR7_to_VR9 : [relocate (onlyConfig 0x1000) 0xFFF00104, relocate (onlyConfig 0x1000) 0xFFF000FC,
    relocate (onlyConfig 0x1800) 0xFFF01FFC] = [.gap, .gap, .gap] := by decide
theorem test_VR10_to_VR13 : [relocate (onlyConfig 0x1000) 0xFFF02000, relocate (onlyConfig 0x1000) 0x00000500,
    relocate (onlyConfig 0x1000) 0xFFF10500, relocate (onlyConfig 0x1000) 0xFFE00500] =
  [.mapped 0xFFF02000 false, .mapped 0x00000500 false, .mapped 0xFFF10500 false, .mapped 0xFFE00500 false] := by decide

/-! ### The Fetch event (V3, P2, P3) -/

theorem test_VF1 : outAfter (stateWith SprFile.zero .supervisor [.fetch (plain 0x2000 .supervisor false)]) =
    some { Output.none with ubus := some (access 0x2000 false false false false false) } := by rfl
theorem test_VF4 : outAfter (stateWith (onlyConfig 0x2000) .supervisor
      [.fetch { plain 0x2000 .supervisor false with dp := true }]) =
    some { Output.none with ubus := some (access 0x2000 false false false true false) } := by rfl
theorem test_VF5 : outAfter (stateWith (onlyConfig 0x2000) .supervisor
      [.fetch { plain 0x2000 .user false with sc := true, pt := true }]) =
    some { Output.none with ubus := some (access 0x2000 true true true false false) } := by rfl
theorem test_P3_guarded : outAfter (stateWith configA .supervisor [.fetch (plain 0x00401000 .supervisor true)]) =
    some { Output.none with error := some (fetchErrorOf .guardedStorage) } := by rfl
theorem test_P3_guarded_traced : outAfter (stateWith configA .supervisor
      [.fetch { plain 0x00401000 .supervisor true with pt := true }]) =
    some { Output.none with ubus := some (access 0x00401000 false false true false true),
                            error := some (fetchErrorOf .guardedStorage) } := by rfl
theorem test_P2_vector : outAfter (stateWith (onlyConfig 0x3800) .supervisor [.fetch (plain 0xFFF00500 .supervisor false)]) =
    some { Output.none with ubus := some (access (Config.intMemBase + 0x8028) true false false false false) } := by rfl
theorem test_P2_gap : outAfter (stateWith (onlyConfig 0x3800) .supervisor [.fetch (plain 0xFFF00504 .supervisor false)]) =
    some { Output.none with error := some (fetchErrorOf .relocGap) } := by rfl
theorem test_S6 : [(fetchErrorOf .guardedStorage).srr1, (fetchErrorOf .protectedStorage).srr1] =
    [some 0x10000000, some 0x08000000] := by rfl

/-! ### Register access (V4) -/

theorem test_VW1 : sprAfter (stateWith SprFile.zero .supervisor [.mtSpr 784 0x00400000 .supervisor]) =
    some { SprFile.zero with miRba0 := 0x00400000 } := by rfl
theorem test_VW2 : sprAfter (stateWith SprFile.zero .supervisor [.mtSpr 786 0x00001FFF .supervisor]) =
    some { SprFile.zero with miRba2 := 0x00001000 } := by rfl
theorem test_VW5 : sprAfter (stateWith SprFile.zero .supervisor [.mtSpr 818 0xFFFFFC00 .supervisor]) =
    some { SprFile.zero with miRa2 := 0xFFFFFC00 } := by rfl
theorem test_VW6 : sprAfter (stateWith SprFile.zero .supervisor [.mtSpr 819 0x00001000 .supervisor]) =
    some { SprFile.zero with miRa3 := 0x00001000 } := by rfl
theorem test_VW7 : sprAfter (stateWith SprFile.zero .supervisor [.mtSpr 528 0xC0000800 .supervisor]) =
    some { SprFile.zero with miGra := 0xC0000800 } := by rfl
theorem test_VW8 : sprAfter (stateWith SprFile.zero .supervisor [.mtSpr 560 0x00003800 .supervisor]) =
    some { SprFile.zero with bbcmcr := 0x00003800 } := by rfl
theorem test_VW11 : (nextState (step (stateWith SprFile.zero .supervisor [.mtSpr 560 0x00002000 .user]))).map
    (fun t => (t.spr, t.out.userSprFault)) = some (SprFile.zero, true) := by decide
theorem test_VW13 : (match step (stateWith SprFile.zero .supervisor [.mtSpr 788 0 .supervisor]) with
    | .refused r => r == .otherSpr 788
    | _ => false) = true := by decide
theorem test_P4_mfspr_user : (nextState (exec (.mfsprMiGra 4) (stateWith (region0 0x00401000 0) .user []))).map
    (fun t => (t.spr == region0 0x00401000 0, readGpr t.core 4)) = some (true, some 0) := by rfl

/-! ### The 20 instructions, run by a step after reset -/

/-- The registers after the step that runs word `w`, with `v` in x[3]. -/
def sprAfterWord (v : Word) (w : Nat) : Option SprFile := sprAfter ((withX3 v State.reset).withFetchWord 32 w)

theorem test_mtspr_miRba0 : sprAfterWord 0x12345678 0x7C70C3A6 = some { SprFile.zero with miRba0 := 0x12345000 } := by rfl
theorem test_mtspr_miRba1 : sprAfterWord 0x12345678 0x7C71C3A6 = some { SprFile.zero with miRba1 := 0x12345000 } := by rfl
theorem test_mtspr_miRba2 : sprAfterWord 0x12345678 0x7C72C3A6 = some { SprFile.zero with miRba2 := 0x12345000 } := by rfl
theorem test_mtspr_miRba3 : sprAfterWord 0x12345678 0x7C73C3A6 = some { SprFile.zero with miRba3 := 0x12345000 } := by rfl
theorem test_mtspr_miRa0 : sprAfterWord 0x12345FFF 0x7C70CBA6 = some { SprFile.zero with miRa0 := 0x12345C40 } := by rfl
theorem test_mtspr_miRa1 : sprAfterWord 0x12345FFF 0x7C71CBA6 = some { SprFile.zero with miRa1 := 0x12345C40 } := by rfl
theorem test_mtspr_miRa2 : sprAfterWord 0x12345FFF 0x7C72CBA6 = some { SprFile.zero with miRa2 := 0x12345C40 } := by rfl
theorem test_mtspr_miRa3 : sprAfterWord 0x12345FFF 0x7C73CBA6 = some { SprFile.zero with miRa3 := 0x12345C40 } := by rfl
theorem test_mtspr_miGra : sprAfterWord 0xFFFFFFFF 0x7C7083A6 = some { SprFile.zero with miGra := 0xF0000C40 } := by rfl
theorem test_mtspr_bbcmcr : sprAfterWord 0xFFFFFFFF 0x7C708BA6 = some { SprFile.zero with bbcmcr := 0x00003800 } := by rfl

/-- Ten different values in the registers. -/
def distinct : SprFile :=
  { miRba0 := 0x00001000, miRba1 := 0x00002000, miRba2 := 0x00003000, miRba3 := 0x00004000, miRa0 := 0x00005000,
    miRa1 := 0x00006000, miRa2 := 0x00007000, miRa3 := 0x00008000, miGra := 0x00000440, bbcmcr := 0x00002800 }

/-- What x[5] holds after an instruction, with the registers `distinct` and no 1 in a reserved position. -/
def x5After (i : Instr) : Option Word := (nextState (exec i (stateWith distinct .supervisor []))).bind fun t => readGpr t.core 5

theorem test_mfspr_bases (k : Word) (h : Config.freeReserved 0 = k) :
    [x5After (.mfsprMiRba0 5), x5After (.mfsprMiRba1 5), x5After (.mfsprMiRba2 5), x5After (.mfsprMiRba3 5)] =
      [some (0x00001000 ||| (k &&& 0)), some (0x00002000 ||| (k &&& 0)), some (0x00003000 ||| (k &&& 0)),
       some (0x00004000 ||| (k &&& 0))] := by
  subst h
  rfl
theorem test_mfspr_attributes (k : Word) (h : Config.freeReserved 0 = k) :
    [x5After (.mfsprMiRa0 5), x5After (.mfsprMiRa1 5), x5After (.mfsprMiRa2 5), x5After (.mfsprMiRa3 5)] =
      [some (0x00005000 ||| (k &&& 0)), some (0x00006000 ||| (k &&& 0)), some (0x00007000 ||| (k &&& 0)),
       some (0x00008000 ||| (k &&& 0))] := by
  subst h
  rfl
theorem test_mfspr_global_and_config (k : Word) (h : Config.freeReserved 0 = k) :
    [x5After (.mfsprMiGra 5), x5After (.mfsprBbcmcr 5)] =
      [some (0x00000440 ||| (k &&& 0)), some (0x00002800 ||| (k &&& 0))] := by
  subst h
  rfl

/-! ### Reset (V5) -/

/-- The state before VZ1. -/
def beforeVZ1 : SprFile := { SprFile.zero with miRba0 := 0x00401000, miGra := 0x80000C00, bbcmcr := 0x00002000 }

theorem test_VZ1 : sprAfter (stateWith beforeVZ1 .user [.reset true true]) =
    some { SprFile.zero with miRba0 := 0x00401000, bbcmcr := 0x00001000 } := by rfl
theorem test_VZ2 : sprAfter (stateWith beforeVZ1 .user [.reset false false]) =
    some { SprFile.zero with miRba0 := 0x00401000 } := by rfl
theorem test_VZ3 : outAfter (stateWith { beforeVZ1 with miGra := 0, bbcmcr := 0x1000 } .supervisor
      [.fetch (plain 0xFFF00100 .supervisor false)]) =
    some { Output.none with ubus := some (access (Config.intMemBase + 0x0008) false false false false false) } := by rfl
theorem test_step_after_reset_faults_without_program : (match step State.reset with
    | .fault f => f == .noAnswer 0x100
    | _ => false) = true := by decide
theorem test_standby_refused_while_pending : (match step { State.reset with
      pending := [access 0x100 false false false false false], inputs := [.standbyEnter] } with
    | .refused r => r == .pendingAtStandby
    | _ => false) = true := by decide
theorem test_standby_entered_with_nothing_pending :
    (nextState (step { State.reset with inputs := [.standbyEnter] })).map State.clocksOff = some true := by decide
/-- R28: after a reset no reserved position counts as written with 1, of a region register either. -/
theorem test_reset_forgets_reserved_ones : (nextState (step { State.reset with
      reservedOnes := { SprFile.zero with miRba2 := 0x00000FFF }, inputs := [.reset false false] })).map State.reservedOnes =
    some SprFile.zero := by decide
/-- R80: the core's cycle that runs an mtspr is a fetch and a register access, and no debug port fetch; in standby it is neither. -/
theorem test_modes_of_the_core_cycle :
    [operatesIn (State.reset.withFetchWord 32 0x7C70C3A6) .coreCycle .normal,
     operatesIn (State.reset.withFetchWord 32 0x7C70C3A6) .coreCycle .slave,
     operatesIn (State.reset.withFetchWord 32 0x48000000) .coreCycle .slave,
     operatesIn (State.reset.withFetchWord 32 0x7C70C3A6) .coreCycle .debug,
     operatesIn { State.reset with clocksOff := true } .coreCycle .normal,
     operatesIn { State.reset with core := { State.reset.core with dp := true } } (nextEvent State.reset) .debug] =
    [true, true, false, false, false, true] := by rfl
theorem test_little_endian_burst_refused : (match step { stateWith (onlyConfig 0x2000) .supervisor
      [.fetch (plain 0x2000 .supervisor false)] with
      core := { State.reset.core with mode := { State.reset.core.mode with littleEndian := true } } } with
    | .refused r => r == .littleEndian
    | _ => false) = true := by decide

/-! ### Witnesses for the hypotheses of the statements -/

/-- A core in user mode. -/
def userState : State := stateWith SprFile.zero .user []

/-- The core of `f` fetching at `pc` with MSR[IR] = ir and MSR[IP] = ip. -/
def fetching (f : SprFile) (pc : Word) (priv : Priv) (ir ip : Bool) : State :=
  { State.reset with
    spr := f
    core := { State.reset.core with pc := pc, mode := { priv := priv, msrIr := ir, msrIp := ip, littleEndian := false } } }

/-- The state in which mtspr MI_RBA0, r3 is placed after reset. -/
def placed : State := State.reset.withFetchWord 32 0x7C70C3A6

theorem witness_DecodeOfEncodeIsTheInstr :
    (Instr.mtsprMiRa3 31).wf = true ∧ (Instr.mfsprBbcmcr 0).wf = true := by decide
theorem witness_DecodedWordIsItsOwnEncoding : decodeWord 0x7FF0C3A6 = .ok (.mtsprMiRba0 31) := by rfl
theorem witness_TableWordsDecodeToTheirRows : (31 : Nat) < 32 ∧ (0 : Nat) < 32 := by decide
theorem witness_SupervisorMtsprCompletes :
    31 < 32 ∧ State.reset.core.mode.priv = .supervisor ∧ State.reset.clocksOff = false := by decide
theorem witness_SupervisorMfsprCompletes :
    0 < 32 ∧ State.reset.core.mode.priv = .supervisor ∧ State.reset.clocksOff = false := by decide
theorem witness_MtsprRegionBaseSetsRa :
    3 < 32 ∧ State.reset.core.mode.priv = .supervisor ∧ State.reset.clocksOff = false ∧
    -- the clause on ill-formed regions: base 0x0000_1000 with an 8-Kbyte region
    manualField (withX3 0x00001000 (stateWith (region0 0 0x00001000) .supervisor [])).core.gpr[3] 0 20 &&&
      fieldRs ((region0 0 0x00001000).ra 0) ≠ 0 := by decide
theorem witness_MtsprRegionAttributesSetsRsPpG :
    3 < 32 ∧ State.reset.core.mode.priv = .supervisor ∧ State.reset.clocksOff = false ∧
    ∀ k ≤ 20, (manualField (withX3 0x00005800 State.reset).core.gpr[3] 0 20).toNat + 1 ≠ 2 ^ k := by decide
theorem witness_MtsprGlobalSetsEnablesPpG :
    31 < 32 ∧ State.reset.core.mode.priv = .supervisor ∧ State.reset.clocksOff = false := by decide
theorem witness_MtsprConfigSetsBeEtreOerc :
    3 < 32 ∧ State.reset.core.mode.priv = .supervisor ∧ State.reset.clocksOff = false ∧
    manualBit (withX3 0x00001000 State.reset).core.gpr[3] 19 = true ∧
    manualBit (withX3 0x00002000 State.reset).core.gpr[3] 19 = false := by decide

/-- A state whose next event ends standby meets the invariant. -/
theorem inv_leavingStandby : { State.reset with clocksOff := true, inputs := [.standbyExit] }.Inv where
  memCanonical := by decide
  sprCanonical := fun n => by cases n <;> decide
  staleCanonical := fun f h => by cases h
  reservedCanonical := fun n => by cases n <;> decide
  standbyIdle := fun _ => rfl
  pendingWellFormed := fun u h => by cases h

/-- A supervisor's state with a 1 once written in a reserved position of MI_RBA2 (VW2) meets the invariant. -/
theorem inv_withReservedOnes :
    { State.reset with spr := { SprFile.zero with miRba2 := 0x00001000 },
                       reservedOnes := { SprFile.zero with miRba2 := 0x00000FFF } }.Inv where
  memCanonical := by decide
  sprCanonical := fun n => by cases n <;> decide
  staleCanonical := fun f h => by cases h
  reservedCanonical := fun n => by cases n <;> decide
  standbyIdle := fun h => by cases h
  pendingWellFormed := fun u h => by cases h

theorem witness_MfsprReturnsNamedFields :
    ∃ s : State, s.Inv ∧ s.core.mode.priv = .supervisor ∧ s.clocksOff = false ∧
      (reservedMask .miRba2).getLsbD 31 = false ∧ (reservedMask .miGra).getLsbD 12 = true ∧
      (s.reservedOnes.get .miGra).getLsbD 12 = false := ⟨_, inv_withReservedOnes, by decide⟩
theorem witness_MtsprThenMfsprReadsBack :
    3 < 32 ∧ 31 < 32 ∧ State.reset.core.mode.priv = .supervisor ∧ State.reset.clocksOff = false ∧
    (withX3 0x00400000 State.reset).core.gpr[3] &&& reservedMask .miRba0 = 0 ∧
    State.reset.reservedOnes.get .miRba0 = 0 := by decide
theorem witness_MtsprFrame : State.reset.core.mode.priv = .supervisor ∧
    ∃ t, exec (Instr.mtspr .miGra 31) State.reset = .next t := ⟨by decide, _, rfl⟩
theorem witness_MfsprFrame : State.reset.core.mode.priv = .supervisor ∧
    ∃ t, exec (Instr.mfspr .miGra 31) State.reset = .next t := ⟨by decide, _, rfl⟩
theorem witness_UserAccessTakesException :
    (Instr.mfsprMiGra 31).wf = true ∧ userState.core.mode.priv = .user ∧ userState.clocksOff = false ∧
    fieldEtre userState.spr.bbcmcr = false ∧
    (fetching (onlyConfig 0x1000) 0 .user false true).core.mode.msrIp = true := by decide
theorem witness_UserAccessEventRaisesUserSprFault :
    (stateWith SprFile.zero .user [.mtSpr (sprNumber .bbcmcr) 0x2000 .user]).clocksOff = false ∧
    (stateWith SprFile.zero .user [.mtSpr (sprNumber .bbcmcr) 0x2000 .user]).inputs = [.mtSpr 560 0x2000 .user] ∧
    (stateWith SprFile.zero .user [.mfSpr (sprNumber .miGra) .user]).inputs = [.mfSpr 528 .user] := by decide
theorem witness_ExceptionNeedsIpWithRelocation :
    (Instr.mtsprBbcmcr 0).wf = true ∧ (stateWith (onlyConfig 0x1000) .user []).core.mode.priv = .user ∧
    (stateWith (onlyConfig 0x1000) .user []).clocksOff = false ∧
    fieldEtre (stateWith (onlyConfig 0x1000) .user []).spr.bbcmcr = true ∧
    (stateWith (onlyConfig 0x1000) .user []).core.mode.msrIp = false := by decide
theorem witness_ExceptionNeedsIpWithRelocation_fetch :
    let s := fetching { configA with bbcmcr := 0x1000 } 0x00401000 .user true false
    s.inputs = [] ∧ s.clocksOff = false ∧ s.stale = [] ∧ s.core.mode.littleEndian = false ∧ s.core.dp = false ∧
    fieldEtre s.spr.bbcmcr = true ∧ s.core.mode.msrIp = false ∧
    impuCheck s.spr s.core.pc s.core.mode.priv s.core.mode.msrIr = .ok .guardedStorage :=
  ⟨rfl, rfl, rfl, rfl, rfl, rfl, rfl, rfl⟩
theorem witness_AccessInStandbyIsRefused :
    (Instr.mtsprBbcmcr 0).wf = true ∧ { State.reset with clocksOff := true }.clocksOff = true := by decide
theorem witness_OtherSprNumbersAreRefused :
    (788 : BitVec 10).toNat ∉ [784, 785, 786, 787, 816, 817, 818, 819, 528, 560] ∧
    (783 : BitVec 10).toNat ∉ [784, 785, 786, 787, 816, 817, 818, 819, 528, 560] ∧
    (stateWith SprFile.zero .user [.mfSpr 788 .user]).inputs = [.mfSpr 788 .user] := by decide
theorem witness_StepRunsTheDecodedInstr :
    placed.inputs = [] ∧ placed.clocksOff = false ∧
    coreFetch placed = .ok (.forwarded (access 0x100 false false false false false)) ∧
    readBytes placed.mem 0x100 = some [0x7C, 0x70, 0xC3, 0xA6] ∧
    decodeBytes (instructionBytes placed.core.mode.littleEndian [0x7C, 0x70, 0xC3, 0xA6]) = .ok (.mtsprMiRba0 3, []) :=
  ⟨rfl, rfl, rfl, rfl, rfl⟩
theorem witness_StepRunsTheInstrAtPc :
    placed.runsPlainly ∧ readBytes placed.mem placed.core.pc = some [0x7C, 0x70, 0xC3, 0xA6] ∧
    decodeWord (bigEndianWord 0x7C 0x70 0xC3 0xA6) = .ok (.mtsprMiRba0 3) := ⟨by unfold State.runsPlainly; decide, rfl, rfl⟩
theorem witness_PlacedWordIsTheNextInstr :
    State.reset.runsPlainly ∧ decodeWord 0x7C70C3A6 = .ok (.mtsprMiRba0 3) := ⟨by unfold State.runsPlainly; decide, rfl⟩
theorem witness_CoreFetchUsesOldOrNewRegisters :
    (stateWith SprFile.zero .user [.coreDiscard]).inputs = .coreDiscard :: [] := rfl

/-- The next step handles `q` under the registers `f`. -/
theorem fetchesNext_stateWith (f : SprFile) (priv : Priv) (q : FetchRequest) : (stateWith f priv [.fetch q]).fetchesNext q :=
  ⟨⟨[], rfl⟩, rfl, rfl⟩

theorem witness_NoViolationWithMsrIrClear :
    (stateWith configB .user [.fetch (plain 0x00401000 .user false)]).fetchesNext (plain 0x00401000 .user false) ∧
    relocate configB 0x00401000 = .mapped 0x00401000 false ∧ relocate (onlyConfig 0x1000) 0xFFF00104 = .gap :=
  ⟨fetchesNext_stateWith _ _ _, by decide, by decide⟩
theorem witness_GuardedRegionRefusesEveryFetch :
    (stateWith configA .user [.fetch (plain 0x00401000 .supervisor true)]).checksNext (plain 0x00401000 .supervisor true) ∧
    (fetchAttrs configA 0x00401000).g = true := ⟨⟨fetchesNext_stateWith _ _ _, rfl, rfl, by decide⟩, by decide⟩
/-- The case in which PP refuses as well: G = 1 with PP = 00, and with PP = 01 for a user. -/
theorem witness_GuardedRegionRefusesEveryFetch_both :
    (stateWith (region0 0x1000 0x40) .supervisor [.fetch (plain 0x1000 .supervisor true)]).checksNext (plain 0x1000 .supervisor true) ∧
    (fetchAttrs (region0 0x1000 0x40) 0x1000).g = true ∧ (fetchAttrs (region0 0x1000 0x40) 0x1000).pp = 0 ∧
    (stateWith (region0 0x1000 0x440) .user [.fetch (plain 0x1000 .user true)]).checksNext (plain 0x1000 .user true) ∧
    (fetchAttrs (region0 0x1000 0x440) 0x1000).g = true ∧ (fetchAttrs (region0 0x1000 0x440) 0x1000).pp = 1 :=
  ⟨⟨fetchesNext_stateWith _ _ _, rfl, rfl, by decide⟩, by decide, by decide,
    ⟨fetchesNext_stateWith _ _ _, rfl, rfl, by decide⟩, by decide, by decide⟩
theorem witness_PpDecidesTheFetch :
    (stateWith configA .user [.fetch (plain 0x0000FFFC .user true)]).checksNext (plain 0x0000FFFC .user true) ∧
    (fetchAttrs configA 0x0000FFFC).g = false ∧ (fetchAttrs configA 0x0000FFFC).pp = 1 ∧
    (fetchAttrs configA 0x00402000).g = false ∧ (fetchAttrs configA 0x00402000).pp = 2 :=
  ⟨⟨fetchesNext_stateWith _ _ _, rfl, rfl, by decide⟩, by decide⟩
theorem witness_LowestMatchingRegionDecides :
    enabledRegionsWellFormed configB = true ∧ regionOn configB 2 = true ∧ regionMatches configB 2 0x8000 = true ∧
    ∀ y : Fin 4, y < 2 → regionOn configB y = false ∨ regionMatches configB y 0x8000 = false := by decide
theorem witness_GlobalRegionDecidesWhenNoneMatches :
    enabledRegionsWellFormed configA = true ∧
    ∀ x : Fin 4, regionOn configA x = false ∨ regionMatches configA x 0x00800000 = false := by decide
theorem witness_RegionOffTakesNoPart : regionOn configA 3 = false ∧ regionMatches configA 3 0 = true := by decide
theorem witness_MatchIsTheAddressRange :
    wellFormedRegion configA 1 = true ∧ regionMatches configA 1 0x007FFFFC = true ∧
    regionMatches configA 1 0x00800000 = false ∧ wellFormedRegion configA 3 = true := by decide
theorem witness_LegalSizesArePowersOfTwo :
    (0xFFFFF : BitVec 20).toNat + 1 = 2 ^ 20 ∧ (0 : BitVec 20).toNat + 1 = 2 ^ 0 ∧ legalRs 5 = false := by decide
theorem witness_IllFormedRegionRefusesTheEvent :
    (stateWith (region0 0 0x00005800) .user [.fetch (plain 0 .user true)]).fetchesNext (plain 0 .user true) ∧
    regionOn (region0 0 0x00005800) 0 = true ∧ wellFormedRegion (region0 0 0x00005800) 0 = false :=
  ⟨fetchesNext_stateWith _ _ _, by decide⟩
theorem witness_LowAddressBitsNeverMatterToProtection :
    (0x00001000 : Word).toNat / 4096 = (0x00001FFF : Word).toNat / 4096 := by decide
theorem witness_ViolationReportSetsOneBit :
    ∃ t, step (stateWith configA .user [.fetch (plain 0x00401000 .user true)]) = .next t ∧
      t.out.error = some (fetchErrorOf .guardedStorage) ∧ (fetchErrorOf .guardedStorage).kind ≠ .relocGap :=
  ⟨_, rfl, rfl, by decide⟩
theorem witness_CoreTakesTheImpuException :
    let s := fetching configA 0x00401000 .user true false
    let t := fetching { configA with bbcmcr := 0x1800 } 0x0000FFFC .user true true
    s.inputs = [] ∧ s.clocksOff = false ∧ s.stale = [] ∧ s.core.mode.littleEndian = false ∧ s.core.dp = false ∧
    fieldEtre s.spr.bbcmcr = false ∧
    impuCheck s.spr s.core.pc s.core.mode.priv s.core.mode.msrIr = .ok .guardedStorage ∧
    t.core.mode.msrIp = true ∧ fieldEtre t.spr.bbcmcr = true ∧
    impuCheck t.spr t.core.pc t.core.mode.priv t.core.mode.msrIr = .ok .protectedStorage :=
  ⟨rfl, rfl, rfl, rfl, rfl, rfl, rfl, rfl, rfl, rfl⟩
theorem witness_RelocationOffChangesNothing :
    ∃ t u, (stateWith (onlyConfig 0x0800) .user [.fetch (plain 0xFFF00500 .user false)]).fetchesNext (plain 0xFFF00500 .user false) ∧
      fieldEtre (onlyConfig 0x0800).bbcmcr = false ∧
      step (stateWith (onlyConfig 0x0800) .user [.fetch (plain 0xFFF00500 .user false)]) = .next t ∧ t.out.ubus = some u :=
  ⟨_, _, fetchesNext_stateWith _ _ _, by decide, rfl, rfl⟩
theorem witness_ResetVectorIgnoresOerc :
    fieldEtre (onlyConfig 0x1000).bbcmcr = true ∧ fieldEtre (onlyConfig 0x1800).bbcmcr = true := by decide
theorem witness_VectorTableRowsAreMapped : fieldEtre (onlyConfig 0x1800).bbcmcr = true ∧ table41.length = 21 := by decide
theorem witness_VectorsMapEightBytesApart : fieldEtre (onlyConfig 0x1800).bbcmcr = true ∧ 31 < 32 ∧ 1 < 32 := by decide
theorem witness_FetchBetweenEntriesIsAnError :
    (stateWith (onlyConfig 0x1000) .user [.fetch (plain 0xFFF01FFF .user false)]).fetchesNext (plain 0xFFF01FFF .user false) ∧
    fieldEtre (onlyConfig 0x1000).bbcmcr = true ∧ impuCheck (onlyConfig 0x1000) 0xFFF01FFF .user false = .ok .allowed ∧
    (0xFFF01FFF : Word).toNat ≤ 0xFFF01FFF ∧ (0xFFF01FFF : Word).toNat % 256 ≠ 0 ∧
    0xFFF00000 ≤ (0xFFF00001 : Word).toNat ∧ (0xFFF00001 : Word).toNat % 256 ≠ 0 :=
  ⟨fetchesNext_stateWith _ _ _, by decide, rfl, by decide, by decide, by decide, by decide⟩
theorem witness_CoreFetchBetweenEntriesFaults :
    let s := fetching (onlyConfig 0x1000) 0xFFF00104 .user false true
    s.inputs = [] ∧ s.clocksOff = false ∧ s.stale = [] ∧ s.core.mode.littleEndian = false ∧ s.core.dp = false ∧
    impuCheck s.spr s.core.pc s.core.mode.priv s.core.mode.msrIr = .ok .allowed ∧ relocate s.spr s.core.pc = .gap :=
  ⟨rfl, rfl, rfl, rfl, rfl, rfl, rfl⟩
theorem witness_OutsideTheWindowIsUntouched :
    (0xFFEFFFFF : Word).toNat < 0xFFF00000 ∧ 0xFFF01FFF < (0xFFF02000 : Word).toNat := by decide
theorem witness_FetchFollowsItsPseudocode :
    (stateWith configA .user [.fetch (plain 0x00402000 .user true)]).fetchesNext (plain 0x00402000 .user true) ∧
    impuCheck configA 0x00402000 .user true = .ok .allowed ∧ impuCheck configA 0x00401000 .user true = .ok .guardedStorage ∧
    impuCheck configA 0x00800000 .user true = .ok .protectedStorage ∧
    impuCheck (onlyConfig 0x1000) 0xFFF00104 .user false = .ok .allowed ∧ relocate (onlyConfig 0x1000) 0xFFF00104 = .gap :=
  ⟨fetchesNext_stateWith _ _ _, rfl, rfl, rfl, rfl, by decide⟩
theorem witness_AccessCarriesAttributesAndBurstRequest :
    ∃ t u, (stateWith (onlyConfig 0x2000) .user [.fetch (plain 0x2000 .user false)]).fetchesNext (plain 0x2000 .user false) ∧
      step (stateWith (onlyConfig 0x2000) .user [.fetch (plain 0x2000 .user false)]) = .next t ∧ t.out.ubus = some u :=
  ⟨_, _, fetchesNext_stateWith _ _ _, rfl, rfl⟩
theorem witness_AccessCarriesAttributesAndBurstRequest_core :
    ∃ t u, placed.inputs = [] ∧ step placed = .next t ∧ t.out.ubus = some u := ⟨_, _, rfl, rfl, rfl⟩
theorem witness_DebugFetchIsNeverABurst :
    let q := { plain 0x2000 .user true with dp := true }
    (stateWith configA .user [.fetch q]).fetchesNext q ∧
    operatesIn (stateWith configA .user [.fetch q]) (.fetch q) .debug = true ∧ enabledRegionsWellFormed configA = true :=
  ⟨fetchesNext_stateWith _ _ _, rfl, by decide⟩
/-- The registers `f` with a core in little-endian operation and the given event next. -/
def littleEndianState (f : SprFile) (inputs : List Event) : State :=
  { stateWith f .supervisor inputs with
    core := { State.reset.core with mode := { State.reset.core.mode with littleEndian := true } } }

/-- Relocation off, an address goes out as it is, wherever `IntMemBase` lies. -/
theorem relocate_zero (ea : Word) : relocate SprFile.zero ea = .mapped ea false := by
  unfold relocate
  split <;> rfl

theorem witness_LittleEndianFetchIsRefusedOrGoesOn :
    let q := plain (Config.intMemBase + 0x1FFF) .supervisor false
    (littleEndianState SprFile.zero [.fetch q]).inputs = .fetch q :: [] ∧
    (littleEndianState SprFile.zero [.fetch q]).clocksOff = false ∧
    (littleEndianState SprFile.zero [.fetch q]).core.mode.littleEndian = true ∧
    fieldBe (onlyConfig 0x2000).bbcmcr = true ∧ fieldBe SprFile.zero.bbcmcr = false ∧ q.dp = false ∧
    relocate SprFile.zero q.ea = .mapped q.ea false ∧ (q.ea - Config.intMemBase).toNat < 0x2000 ∧
    relocate (onlyConfig 0x1800) 0xFFF00200 = .mapped (Config.intMemBase + 0x8010) true ∧
    impuCheck SprFile.zero q.ea q.priv q.msrIr = .ok .allowed :=
  ⟨rfl, rfl, rfl, by decide, by decide, rfl, relocate_zero _, by simp [plain], by rfl, rfl⟩
theorem witness_LittleEndianFetchIsRefusedOrGoesOn_core :
    let s := littleEndianState (onlyConfig 0x2000) []
    let t := { littleEndianState (onlyConfig 0x1800) [] with
      core := { State.reset.core with pc := 0xFFF00100, mode := { State.reset.core.mode with littleEndian := true } } }
    s.inputs = [] ∧ s.clocksOff = false ∧ s.core.mode.littleEndian = true ∧ fieldBe (fetchView s).bbcmcr = true ∧
    t.inputs = [] ∧ t.clocksOff = false ∧ t.core.mode.littleEndian = true ∧ t.core.dp = false ∧
    relocate (fetchView t) t.core.pc = .mapped (Config.intMemBase + 0x0008) true :=
  ⟨rfl, rfl, rfl, rfl, rfl, rfl, rfl, rfl, rfl⟩
theorem witness_FetchChangesNoRegister :
    ∃ t, (stateWith configA .user [.fetch (plain 0x00401000 .user true)]).fetchesNext (plain 0x00401000 .user true) ∧
      step (stateWith configA .user [.fetch (plain 0x00401000 .user true)]) = .next t := ⟨_, fetchesNext_stateWith _ _ _, rfl⟩
theorem witness_ResetSetsGlobalAndConfigRegisters :
    (stateWith configB .user [.reset true true]).inputs = .reset true true :: [] := rfl
theorem witness_ResetKeepsRegionsAndDropsPending :
    (stateWith configB .user [.reset false true, .coreCycle]).inputs = .reset false true :: [.coreCycle] := rfl
theorem witness_FirstFetchAfterReset :
    (stateWith configB .user [.reset true true]).inputs = .reset true true :: [] ∧
    (stateWith configB .user [.reset true true]).core.dp = false := ⟨rfl, rfl⟩
theorem witness_RegionSurvivesReset :
    (stateWith configA .user [.reset true true, .mtSpr 528 0x40000800 .supervisor]).inputs =
      .reset true true :: .mtSpr 528 0x40000800 .supervisor :: [] ∧
    manualBit 0x40000800 ((1 : Fin 4) : Nat) = true := ⟨rfl, by decide⟩
theorem witness_StandbyIssuesNothingAndKeepsRegisters_enter :
    { State.reset with inputs := [.standbyEnter] }.inputs = .standbyEnter :: [] ∧
    { State.reset with inputs := [.standbyEnter] }.pending = [] ∧
    { State.reset with inputs := [.standbyEnter],
                       pending := [access 0x100 false false false false false] }.pending ≠ [] := ⟨rfl, rfl, by decide⟩
theorem witness_StandbyIssuesNothingAndKeepsRegisters :
    { State.reset with clocksOff := true }.clocksOff = true ∧ { State.reset with clocksOff := true }.inputs = [] ∧
    { State.reset with clocksOff := true, inputs := [.standbyExit] }.inputs = .standbyExit :: [] ∧
    { State.reset with clocksOff := true, inputs := [.fetch (plain 0 .user false)] }.inputs = .fetch (plain 0 .user false) :: [] :=
  ⟨rfl, rfl, rfl, rfl⟩
theorem witness_MemoryByteChangesAlone :
    (stateWith configA .user [.memWrite 0xFFFFFFFF 0x7C]).inputs = .memWrite 0xFFFFFFFF 0x7C :: [] := rfl
theorem witness_StepKeepsTheInvariant :
    ∃ s t : State, s.Inv ∧ step s = .next t := ⟨_, _, inv_leavingStandby, rfl⟩
theorem witness_UserCoreCannotChangeRegisters_event :
    ∃ t, { State.withFetchWord userState 32 0x7C70C3A6 with inputs := [.coreCycle] }.core.mode.priv = .user ∧
      step { State.withFetchWord userState 32 0x7C70C3A6 with inputs := [.coreCycle] } = .next t := ⟨_, rfl, rfl⟩
theorem witness_UserCoreCannotChangeRegisters :
    ∃ t, (State.withFetchWord userState 32 0x7C70C3A6).inputs = [] ∧
      (State.withFetchWord userState 32 0x7C70C3A6).core.mode.priv = .user ∧
      step (State.withFetchWord userState 32 0x7C70C3A6) = .next t := ⟨_, rfl, rfl, rfl⟩
/-- The case of a core's cycle: mtspr MI_RBA0, r3 placed after reset, with a value in x[3]. -/
theorem witness_OnlySupervisorWritesAndResetChangeRegisters_cycle :
    let s := (withX3 0x12345678 State.reset).withFetchWord 32 0x7C70C3A6
    ∃ t u, step s = .next t ∧ t.spr ≠ s.spr ∧ s.inputs = [] ∧ s.core.mode.priv = .supervisor ∧ s.clocksOff = false ∧
      fetchInstr (freshOutput { s with inputs := [] }) = .run (Instr.mtspr .miRba0 3) u :=
  ⟨_, _, rfl, by decide, rfl, rfl, rfl, rfl⟩
theorem witness_OnlySupervisorWritesAndResetChangeRegisters :
    ∃ t, step (stateWith configA .user [.mtSpr 528 0 .supervisor]) = .next t ∧ t.spr ≠ configA := ⟨_, rfl, by decide⟩
theorem witness_ForwardedCoreFetchWasAllowed :
    ∃ t u, placed.inputs = [] ∧ placed.core.dp = false ∧ step placed = .next t ∧ t.out.ubus = some u ∧ u.cancelled = false :=
  ⟨_, _, rfl, rfl, rfl, rfl, rfl⟩

end Sys2Proof.Tests
end

/-! ### Reset

What a Reset event comes to, and the fields of the two registers it sets (10_state.md R22, R27). -/

namespace Sys2Proof.Machine

/-- A Reset event always goes on, with the reset of the module. -/
theorem step_reset {s : State} {id19 msrIp : Bool} {rest : List Event} (hi : s.inputs = .reset id19 msrIp :: rest) :
    step s = .next (resetModule id19 msrIp (freshOutput { s with inputs := rest })) :=
  step_event hi rfl

@[simp] theorem manualBit_zero (a : Nat) : manualBit 0 a = false := by simp [manualBit]

@[simp] theorem manualField_zero (a w : Nat) : manualField 0 a w = 0 := by simp [manualField]

/-- With MI_GRA = 0 every region is off. -/
theorem regionOn_of_miGra_zero {f : SprFile} (h : f.miGra = 0) (x : Fin 4) : regionOn f x = false := by
  rw [regionOn, fieldEnr, h, manualBit_zero]

theorem resetModule_miGra (id19 msrIp : Bool) (s : State) : (resetModule id19 msrIp s).spr.miGra = 0 := rfl

/-- R27: the position of ETRE is 0x0000_1000. -/
theorem resetModule_bbcmcr (id19 msrIp : Bool) (s : State) :
    (resetModule id19 msrIp s).spr.bbcmcr = if id19 then 0x00001000 else 0 := by
  cases id19 <;> rfl

/-- Of the fields of BBCMCR only ETRE can be 1 after reset. -/
theorem resetModule_bbcmcr_fields (id19 msrIp : Bool) (s : State) :
    fieldBe (resetModule id19 msrIp s).spr.bbcmcr = false ∧
      fieldEtre (resetModule id19 msrIp s).spr.bbcmcr = id19 ∧
      fieldOerc (resetModule id19 msrIp s).spr.bbcmcr = false := by
  rw [resetModule_bbcmcr]
  cases id19 <;> decide

/-- Settles O48: the step is the reset of the module, which leaves MI_GRA all 0 and BBCMCR with ID[19] at ETRE alone. -/
theorem resetSetsGlobalAndConfigRegisters : Obligations.ResetSetsGlobalAndConfigRegisters := by
  unfold Obligations.ResetSetsGlobalAndConfigRegisters
  intro s id19 msrIp rest hi
  have hGra := resetModule_miGra id19 msrIp (freshOutput { s with inputs := rest })
  refine ⟨_, step_reset hi, hGra, resetModule_bbcmcr .., ?_, ?_, regionOn_of_miGra_zero hGra, ?_, ?_,
    resetModule_bbcmcr_fields ..⟩
  · rw [resetModule_reservedOnes, SprFile.zero_miGra]
  · rw [resetModule_reservedOnes, SprFile.zero_bbcmcr]
  · rw [hGra, fieldPp, manualField_zero]
  · rw [hGra, fieldG, manualBit_zero]

end Sys2Proof.Machine

/-! ### The region a checked fetch is decided by

Which region `chosenRegion` picks (41_impu_fetch_check.md R105, R106), and that the check reads the registers of no region that is
off (R102). -/

namespace Sys2Proof.Machine

theorem regions_eq_finRange : regions = List.finRange 4 := rfl

/-- R105: the chosen region is the lowest index at which a region is on and matches. -/
theorem chosenRegion_eq_some {f : SprFile} {ea : Word} {x : Fin 4} (hOn : regionOn f x = true)
    (hMatch : regionMatches f x ea = true)
    (hBelow : ∀ y : Fin 4, y < x → regionOn f y = false ∨ regionMatches f y ea = false) :
    chosenRegion f ea = some x := by
  rw [chosenRegion, regions_eq_finRange, List.find?_eq_some_iff_getElem]
  refine ⟨by simp [hOn, hMatch], x, by simp, by simp, fun j hj => ?_⟩
  obtain h | h := hBelow ⟨j, hj.trans x.isLt⟩ hj <;> simp [h]

/-- R106: no region is chosen where each is off or does not match. -/
theorem chosenRegion_eq_none {f : SprFile} {ea : Word}
    (h : ∀ x : Fin 4, regionOn f x = false ∨ regionMatches f x ea = false) : chosenRegion f ea = none :=
  List.find?_eq_none.mpr fun x _ => by obtain hx | hx := h x <;> simp [hx]

/-- R102: a chosen region is on. -/
theorem regionOn_of_chosenRegion {f : SprFile} {ea : Word} {x : Fin 4} (h : chosenRegion f ea = some x) :
    regionOn f x = true := by
  unfold chosenRegion at h
  have hBoth := List.find?_some h
  exact (Bool.and_eq_true_iff.mp hBoth).1

theorem fetchAttrs_of_chosenRegion {f : SprFile} {ea : Word} {x : Fin 4} (h : chosenRegion f ea = some x) :
    fetchAttrs f ea = attrsOf (f.ra x) := by
  rw [fetchAttrs, h]

theorem fetchAttrs_of_chosenRegion_none {f : SprFile} {ea : Word} (h : chosenRegion f ea = none) :
    fetchAttrs f ea = attrsOf f.miGra := by
  rw [fetchAttrs, h]

/-- With every enabled region well formed, a checked fetch has the verdict of the chosen attributes. -/
theorem impuCheck_of_wellFormed {f : SprFile} (hwf : enabledRegionsWellFormed f = true) (ea : Word) (priv : Priv) :
    impuCheck f ea priv true = .ok (attrsVerdict (fetchAttrs f ea) priv) := by
  simp [impuCheck, hwf]

/-- Settles O28: region x is the chosen one, so its attributes are the ones the verdict is taken from. -/
theorem lowestMatchingRegionDecides : Obligations.LowestMatchingRegionDecides := by
  unfold Obligations.LowestMatchingRegionDecides
  intro f ea priv x hwf hOn hMatch hBelow
  rw [impuCheck_of_wellFormed hwf, fetchAttrs_of_chosenRegion (chosenRegion_eq_some hOn hMatch hBelow), attrsOf]

/-- Settles O29: no region is chosen, so MI_GRA's attributes are the ones the verdict is taken from. -/
theorem globalRegionDecidesWhenNoneMatches : Obligations.GlobalRegionDecidesWhenNoneMatches := by
  unfold Obligations.GlobalRegionDecidesWhenNoneMatches
  intro f ea priv hwf hNone
  rw [impuCheck_of_wellFormed hwf, fetchAttrs_of_chosenRegion_none (chosenRegion_eq_none hNone), attrsOf]

/-! #### The check reads MI_GRA and the registers of the enabled regions only -/

/-- `g` has the MI_GRA of `f`, and the two registers of each region that is on. -/
structure SprFile.agreesOnEnabled (f g : SprFile) : Prop where
  miGra : g.miGra = f.miGra
  rba : ∀ y : Fin 4, regionOn f y = true → g.rba y = f.rba y
  ra : ∀ y : Fin 4, regionOn f y = true → g.ra y = f.ra y

section Agree

variable {f g : SprFile} (h : f.agreesOnEnabled g)
include h

theorem regionOn_of_agrees (y : Fin 4) : regionOn g y = regionOn f y := by
  rw [regionOn, h.miGra, regionOn]

theorem regionMatches_of_agrees {y : Fin 4} (hy : regionOn f y = true) (ea : Word) :
    regionMatches g y ea = regionMatches f y ea := by
  rw [regionMatches, h.rba y hy, h.ra y hy, regionMatches]

theorem wellFormedRegion_of_agrees {y : Fin 4} (hy : regionOn f y = true) :
    wellFormedRegion g y = wellFormedRegion f y := by
  rw [wellFormedRegion, h.rba y hy, h.ra y hy, wellFormedRegion]

theorem chosenRegion_of_agrees (ea : Word) : chosenRegion g ea = chosenRegion f ea := by
  refine List.find?_congr fun y _ => ?_
  rw [regionOn_of_agrees h]
  cases hy : regionOn f y with
  | false => rfl
  | true => rw [regionMatches_of_agrees h hy]

theorem enabledRegionsWellFormed_of_agrees : enabledRegionsWellFormed g = enabledRegionsWellFormed f := by
  refine congrArg regions.all (funext fun y => ?_)
  rw [regionOn_of_agrees h]
  cases hy : regionOn f y with
  | false => rfl
  | true => rw [wellFormedRegion_of_agrees h hy]

theorem fetchAttrs_of_agrees (ea : Word) : fetchAttrs g ea = fetchAttrs f ea := by
  have hg := chosenRegion_of_agrees h ea
  cases hf : chosenRegion f ea with
  | none => rw [fetchAttrs_of_chosenRegion_none (hg.trans hf), h.miGra, fetchAttrs_of_chosenRegion_none hf]
  | some x =>
    rw [fetchAttrs_of_chosenRegion (hg.trans hf), h.ra x (regionOn_of_chosenRegion hf), fetchAttrs_of_chosenRegion hf]

theorem impuCheck_of_agrees (ea : Word) (priv : Priv) (msrIr : Bool) :
    impuCheck g ea priv msrIr = impuCheck f ea priv msrIr := by
  rw [impuCheck, enabledRegionsWellFormed_of_agrees h, fetchAttrs_of_agrees h, impuCheck]

end Agree

/-! #### A write to a register of one region leaves the other regions' registers -/

theorem SprFile.rba_eq_get (f : SprFile) (x : Fin 4) : f.rba x = f.get (regionBaseSpr x) := by
  fin_cases x <;> rfl

theorem SprFile.ra_eq_get (f : SprFile) (x : Fin 4) : f.ra x = f.get (regionAttrSpr x) := by
  fin_cases x <;> rfl

/-- A register that is neither MI_GRA nor a register of an enabled region takes no part in the check. -/
theorem SprFile.agreesOnEnabled_set {f : SprFile} {n : SprName} (hGra : SprName.miGra ≠ n)
    (hBase : ∀ y : Fin 4, regionOn f y = true → regionBaseSpr y ≠ n)
    (hAttr : ∀ y : Fin 4, regionOn f y = true → regionAttrSpr y ≠ n) (v : Word) :
    f.agreesOnEnabled (f.set n v) where
  miGra := SprFile.get_set_ne _ _ hGra
  rba y hy := by rw [rba_eq_get, get_set_ne _ _ (hBase y hy), rba_eq_get]
  ra y hy := by rw [ra_eq_get, get_set_ne _ _ (hAttr y hy), ra_eq_get]

theorem regionBaseSpr_injective : Function.Injective regionBaseSpr := by decide

theorem regionAttrSpr_injective : Function.Injective regionAttrSpr := by decide

theorem regionBaseSpr_ne_regionAttrSpr : ∀ x y : Fin 4, regionBaseSpr x ≠ regionAttrSpr y := by decide

theorem miGra_ne_regionBaseSpr : ∀ x : Fin 4, SprName.miGra ≠ regionBaseSpr x := by decide

theorem miGra_ne_regionAttrSpr : ∀ x : Fin 4, SprName.miGra ≠ regionAttrSpr x := by decide

/-- Settles O30: a chosen region is on, and the check reads the registers of no region that is off. -/
theorem regionOffTakesNoPart : Obligations.RegionOffTakesNoPart := by
  unfold Obligations.RegionOffTakesNoPart
  intro f x hOff
  have hNe : ∀ y, regionOn f y = true → y ≠ x := by
    rintro y hOn rfl
    exact Bool.false_ne_true (hOff.symm.trans hOn)
  refine ⟨fun ea hx => hNe x (regionOn_of_chosenRegion hx) rfl, fun v ea priv msrIr => ⟨?_, ?_⟩⟩
  · exact impuCheck_of_agrees (SprFile.agreesOnEnabled_set (miGra_ne_regionBaseSpr x)
      (fun y hy => regionBaseSpr_injective.ne (hNe y hy)) (fun y _ => (regionBaseSpr_ne_regionAttrSpr x y).symm) v) ea priv msrIr
  · exact impuCheck_of_agrees (SprFile.agreesOnEnabled_set (miGra_ne_regionAttrSpr x)
      (fun y _ => regionBaseSpr_ne_regionAttrSpr y x) (fun y hy => regionAttrSpr_injective.ne (hNe y hy)) v) ea priv msrIr

end Sys2Proof.Machine

/-! ### Exception relocation

The window and the gaps as ranges of addresses (42_exception_relocation.md R123, R127), and the two ways in which relocation
answers with ETRE = 1 (R124). -/

namespace Sys2Proof.Machine

theorem toNat_manualField (v : Word) (a w : Nat) : (manualField v a w).toNat = v.toNat / 2 ^ (32 - a - w) % 2 ^ w := by
  rw [manualField, BitVec.extractLsb'_toNat, Nat.shiftRight_eq_div_pow]

theorem inVectorWindow_iff (ea : Word) : inVectorWindow ea = true ↔ 0xFFF00000 ≤ ea.toNat ∧ ea.toNat ≤ 0xFFF01FFF := by
  have hLt := ea.isLt
  simp only [inVectorWindow, Bool.and_eq_true, beq_iff_eq, ← BitVec.toNat_inj, toNat_manualField, BitVec.ofNat_eq_ofNat,
    BitVec.toNat_ofNat]
  omega

theorem betweenEntries_iff (ea : Word) : betweenEntries ea = true ↔ ea.toNat % 256 ≠ 0 := by
  simp [betweenEntries, ← BitVec.toNat_inj, toNat_manualField]

section RelocationOn

variable {f : SprFile} {ea : Word} (hEtre : fieldEtre f.bbcmcr = true) (hWindow : inVectorWindow ea = true)
include hEtre hWindow

theorem relocate_of_between (hBetween : betweenEntries ea = true) : relocate f ea = .gap := by
  simp [relocate, hEtre, hWindow, hBetween]

theorem relocate_of_entry (hEntry : betweenEntries ea = false) :
    relocate f ea = .mapped (Config.intMemBase + tableOffset (fieldOerc f.bbcmcr) (vectorNumber ea)) true := by
  simp [relocate, hEtre, hWindow, hEntry]

end RelocationOn

/-! #### A fetch between two entries -/

/-- A delivered access of a cancelled request is marked cancelled (R85). -/
theorem cancelled_of_deliveredAccess {f : SprFile} {q : FetchRequest} {r : Reloc} {u : UbusFetch}
    (h : deliveredAccess f q r = some u) : u.cancelled = true := by
  unfold deliveredAccess at h
  split at h
  · cases h
    rfl
  · cases h

/-- A big-endian Fetch event that is not to the debug port goes on as the IMPU's verdict and relocation decide (R93). -/
theorem handleFetch_of_verdict {s : State} {q : FetchRequest} {v : Verdict} (hClocks : s.clocksOff = false)
    (hBig : s.core.mode.littleEndian = false) (hDp : q.dp = false) (hv : impuCheck s.spr q.ea q.priv q.msrIr = .ok v) :
    handleFetch q s = .next
      { s with
        out := fetchOutput (decideFetch s.spr q v (relocate s.spr q.ea)) s.out
        pending := s.pending ++ issuedAccesses (decideFetch s.spr q v (relocate s.spr q.ea))
        ctr := s.ctr + 1 } := by
  simp [handleFetch, fetchAccess, hClocks, hBig, requestVerdict_of_not_dp hDp, requestReloc_of_not_dp hDp, hv]

/-- The step of such a Fetch event. -/
theorem step_fetch_of_verdict {s : State} {q : FetchRequest} {v : Verdict} (hNext : s.fetchesNext q) (hDp : q.dp = false)
    (hv : impuCheck s.spr q.ea q.priv q.msrIr = .ok v) :
    ∃ rest, s.inputs = .fetch q :: rest ∧ step s = .next
      { s with
        inputs := rest
        out := fetchOutput (decideFetch s.spr q v (relocate s.spr q.ea)) Output.none
        pending := s.pending ++ issuedAccesses (decideFetch s.spr q v (relocate s.spr q.ea))
        ctr := s.ctr + 1 } := by
  obtain ⟨⟨rest, hInputs⟩, hClocks, hBig⟩ := hNext
  refine ⟨rest, hInputs, step_event hInputs (congrArg some ?_)⟩
  exact handleFetch_of_verdict (s := freshOutput { s with inputs := rest }) hClocks hBig hDp hv

/-- Settles O41: relocation answers a gap, so an allowed fetch is cancelled with reloc_gap, and what is delivered is marked. -/
theorem fetchBetweenEntriesIsAnError : Obligations.FetchBetweenEntriesIsAnError := by
  unfold Obligations.FetchBetweenEntriesIsAnError
  intro s q hNext hDp hEtre hAllowed hLow hHigh hOff
  have hGap : relocate s.spr q.ea = .gap :=
    relocate_of_between hEtre ((inVectorWindow_iff _).mpr ⟨hLow, hHigh⟩) ((betweenEntries_iff _).mpr hOff)
  obtain ⟨rest, -, hStep⟩ := step_fetch_of_verdict hNext hDp hAllowed
  rw [hGap] at hStep
  exact ⟨hGap, _, hStep, rfl, fun u hu => cancelled_of_deliveredAccess hu⟩

/-! #### The entries of the branch table -/

/-- R126: the reset entry is fixed. -/
theorem tableOffset_one (oerc : Bool) : tableOffset oerc 1 = 0x0008 := by
  cases oerc <;> decide

/-- R125: every other entry is 0x8000 higher with OERC = 1. -/
theorem tableOffset_of_ne_one {i : BitVec 5} (h : i ≠ 1) (oerc : Bool) :
    tableOffset oerc i = (i.zeroExtend 32 <<< 3) + if oerc then 0x8000 else 0 := by
  rw [tableOffset, bne_iff_ne.mpr h, Bool.and_true]

/-- Settles O38: both addresses are entries; number 1 has one offset, number 2 has two. -/
theorem resetVectorIgnoresOerc : Obligations.ResetVectorIgnoresOerc := by
  unfold Obligations.ResetVectorIgnoresOerc
  intro f hEtre
  have hReset : vectorNumber 0xFFF00100 = 1 := by decide
  have hOther : vectorNumber 0xFFF00200 = 2 := by decide
  constructor
  · rw [relocate_of_entry hEtre (by decide) (by decide), hReset, tableOffset_one]
  · rw [relocate_of_entry hEtre (by decide) (by decide), hOther, tableOffset_of_ne_one (by decide)]
    cases fieldOerc f.bbcmcr <;> rfl

/-- R130: the addresses of the table's rows are entries in the window. -/
theorem entry_of_mem_table41 :
    ∀ row ∈ table41, inVectorWindow (0xFFF#12 ++ row.issued) = true ∧ betweenEntries (0xFFF#12 ++ row.issued) = false := by
  decide

/-- R130: both columns of the table are what the formula of R124 to R126 gives. -/
theorem tableOffset_of_mem_table41 : ∀ row ∈ table41, ∀ oerc : Bool,
    tableOffset oerc (vectorNumber (0xFFF#12 ++ row.issued)) =
      (if oerc then row.mapped1 else row.mapped0).zeroExtend 32 := by
  decide

/-- Settles O39: each row's address is an entry, and its offset by the formula is the row's. -/
theorem vectorTableRowsAreMapped : Obligations.VectorTableRowsAreMapped := by
  unfold Obligations.VectorTableRowsAreMapped
  intro f hEtre row hRow
  obtain ⟨hWindow, hEntry⟩ := entry_of_mem_table41 row hRow
  rw [relocate_of_entry hEtre hWindow hEntry, tableOffset_of_mem_table41 row hRow]

end Sys2Proof.Machine

/-! ### The report of a fetch error

Every error a step reports is what one kind of fetch error reports (60_exceptions.md R171, R174), since no other operation writes
that output. -/

namespace Sys2Proof.Machine

theorem exists_kind_of_fetchOutput {o : FetchOutcome} {out : Output} {e : FetchError}
    (h : (fetchOutput o out).error = some e) : ∃ kind, e = fetchErrorOf kind := by
  cases o with
  | forwarded u => cases h
  | cancelled kind d => exact ⟨kind, (Option.some.inj h).symm⟩

theorem takeException_next_out {i : BitVec 5} {status : Option Word} {s t : State}
    (h : takeException i status s = .next t) : t.out = s.out := by
  rw [takeException_next h]

theorem takeUserSprFault_next_error {s t : State} (h : takeUserSprFault s = .next t) : t.out.error = s.out.error := by
  rw [takeException_next_out h]

/-- An instruction leaves the report of its own fetch as it is. -/
theorem exec_next_error {i : Instr} {s t : State} (h : exec i s = .next t) : t.out.error = s.out.error := by
  obtain ⟨n, r, -, hExec⟩ | ⟨n, r, -, hExec⟩ := exec_cases i s <;> rw [hExec] at h
  · obtain ⟨-, -, v, -, rfl⟩ | ⟨-, -, hFault⟩ := mtsprOp_next h
    · simp
    · exact takeUserSprFault_next_error hFault
  · obtain ⟨-, -, rfl⟩ | ⟨-, -, hFault⟩ := mfsprOp_next h
    · rfl
    · exact takeUserSprFault_next_error hFault

/-- A core's cycle reports an error only where its fetch was cancelled. -/
theorem exists_kind_of_runFetched {s t : State} {e : FetchError} (h : runFetched (fetchInstr s) = .next t)
    (he : t.out.error = some e) : ∃ kind, e = fetchErrorOf kind := by
  obtain ⟨-, ⟨u, i, -, -, hExec⟩ | ⟨kind, d, -, -, hTake⟩⟩ := runFetched_next h
  · rw [exec_next_error hExec] at he
    exact exists_kind_of_fetchOutput he
  · rw [takeException_next_out hTake] at he
    exact exists_kind_of_fetchOutput he

/-- Of the events only a Fetch reports an error. -/
theorem exists_kind_of_handleEvent {ev : Event} {s t : State} {e : FetchError} (hNone : s.out.error = none)
    (h : handleEvent ev s = some (.next t)) (he : t.out.error = some e) : ∃ kind, e = fetchErrorOf kind := by
  have hKept : t.out.error ≠ s.out.error := by simp [he, hNone]
  cases ev with
  | fetch q =>
    obtain ⟨-, o, -, rfl⟩ := handleFetch_next (Option.some.inj h)
    exact exists_kind_of_fetchOutput he
  | mtSpr n v priv =>
    obtain ⟨r, -, -, ⟨-, rfl⟩ | ⟨-, rfl⟩⟩ := handleMtSpr_next (Option.some.inj h) <;> exact absurd rfl hKept
  | mfSpr n priv =>
    obtain ⟨r, -, -, ⟨-, rfl⟩ | ⟨-, rfl⟩⟩ := handleMfSpr_next (Option.some.inj h) <;> exact absurd rfl hKept
  | standbyEnter | ubusComplete k =>
    simp only [handleEvent] at h
    split at h <;> cases h
    exact absurd rfl hKept
  | reset id19 msrIp | standbyExit | coreChange c | coreDiscard | memWrite a b =>
    cases h
    exact absurd rfl hKept
  | coreCycle => cases h

/-- What a step reports comes from its own fetch: the outputs of the step before are gone. -/
theorem exists_kind_of_step {s t : State} {e : FetchError} (h : step s = .next t) (he : t.out.error = some e) :
    ∃ kind, e = fetchErrorOf kind := by
  obtain ⟨ev, rest, -, hEvent⟩ | ⟨rest, -, hCycle⟩ | ⟨-, -, hCycle⟩ | ⟨-, -, rfl⟩ := step_next h
  · exact exists_kind_of_handleEvent rfl hEvent he
  · exact exists_kind_of_runFetched hCycle he
  · exact exists_kind_of_runFetched hCycle he
  · cases he

/-- R172: of the four SRR1 bits a violation sets its own alone. -/
theorem fetchErrorOf_srr1 {kind : FetchErrorKind} (h : kind ≠ .relocGap) :
    ∃ w, (fetchErrorOf kind).srr1 = some w ∧ manualBit w 1 = false ∧ manualBit w 10 = false ∧
      manualBit w 3 = decide (kind = .guardedStorage) ∧ manualBit w 4 = decide (kind = .protectedStorage) ∧
      manualBit w 3 ≠ manualBit w 4 := by
  cases kind with
  | guardedStorage => exact ⟨srr1Guarded, rfl, by decide⟩
  | protectedStorage => exact ⟨srr1Protected, rfl, by decide⟩
  | relocGap => exact absurd rfl h

@[simp] theorem fetchErrorOf_kind (kind : FetchErrorKind) : (fetchErrorOf kind).kind = kind := by
  cases kind <;> rfl

/-- Settles O35: a step reports what one kind of fetch error reports, and each of the IMPU's two kinds sets one bit. -/
theorem violationReportSetsOneBit : Obligations.ViolationReportSetsOneBit := by
  unfold Obligations.ViolationReportSetsOneBit
  intro s t e hStep hError hKind
  obtain ⟨kind, rfl⟩ := exists_kind_of_step hStep hError
  rw [fetchErrorOf_kind] at hKind ⊢
  exact fetchErrorOf_srr1 hKind

end Sys2Proof.Machine

/-! ### Encodings

A word is its five fields, and the decoder answers an instruction exactly for the word whose fields are the instruction's
(30_encoding.md R60, R61, R63). -/

namespace Sys2Proof.Machine

theorem toNat_append_eq_add {v w : Nat} (x : BitVec v) (y : BitVec w) : (x ++ y).toNat = x.toNat * 2 ^ w + y.toNat := by
  rw [BitVec.toNat_append, ← Nat.shiftLeft_add_eq_or_of_lt y.isLt, Nat.shiftLeft_eq]

/-- R63: a word is given by the five fields of an instruction. -/
theorem append_fields_eq_iff (w : Word) (op : BitVec 6) (reg : BitVec 5) (spr xo : BitVec 10) (last : BitVec 1) :
    op ++ reg ++ spr ++ xo ++ last = w ↔
      manualField w 0 6 = op ∧ manualField w 6 5 = reg ∧ manualField w 11 10 = spr ∧ manualField w 21 10 = xo ∧
        manualField w 31 1 = last := by
  have hWord : (op ++ reg ++ spr ++ xo ++ last : Word).toNat =
      (((op.toNat * 2 ^ 5 + reg.toNat) * 2 ^ 10 + spr.toNat) * 2 ^ 10 + xo.toNat) * 2 ^ 1 + last.toNat := by
    rw [toNat_append_eq_add, toNat_append_eq_add, toNat_append_eq_add, toNat_append_eq_add]
  have hw := w.isLt
  have hReg := reg.isLt
  have hSpr := spr.isLt
  have hXo := xo.isLt
  have hLast := last.isLt
  simp only [← BitVec.toNat_inj, hWord, toNat_manualField]
  omega

theorem manualField_bit31 (w : Word) : manualField w 31 1 = 0 ↔ manualBit w 31 = false := by
  simp only [← BitVec.toNat_inj, toNat_manualField, manualBit, BitVec.getLsbD, Nat.testBit_zero, Nat.sub_self]
  simp

theorem ofParts_parts (i : Instr) : Instr.ofParts i.parts.1 i.parts.2.1 i.parts.2.2 = i := by
  cases i <;> rfl

@[simp] theorem parts_ofParts (d : Direction) (n : SprName) (r : Nat) : (Instr.ofParts d n r).parts = (d, n, r) := by
  cases d <;> cases n <;> rfl

@[simp] theorem gprNumber_ofParts (d : Direction) (n : SprName) (r : Nat) : (Instr.ofParts d n r).gprNumber = r := by
  rw [Instr.gprNumber, parts_ofParts]

/-- R61: the swap is its own inverse. -/
theorem swapHalves_swapHalves (n : BitVec 10) : swapHalves (swapHalves n) = n := by
  revert n
  decide

theorem directionOf_eq_some {xo : BitVec 10} {d : Direction} : directionOf xo = some d ↔ xo = extendedOpcode d := by
  constructor
  · intro h
    unfold directionOf at h
    split at h
    · cases h
      assumption
    · split at h <;> cases h
      assumption
  · rintro rfl
    cases d <;> rfl

theorem sprOfNumber_eq_some {n : BitVec 10} {r : SprName} : sprOfNumber n = some r ↔ sprNumber r = n := by
  constructor
  · intro h
    exact eq_of_beq (List.find?_some (p := fun x => sprNumber x == n) h)
  · rintro rfl
    exact sprOfNumber_sprNumber r

theorem encode_ofParts (d : Direction) (n : SprName) (r : Nat) :
    encode (Instr.ofParts d n r) =
      primaryOpcode ++ BitVec.ofNat 5 r ++ swapHalves (sprNumber n) ++ extendedOpcode d ++ (0 : BitVec 1) := by
  rw [encode, parts_ofParts]

/-- What the decoder reads off a word, by the names of its parts. -/
theorem decodeWord_eq_ok {w : Word} {i : Instr} :
    decodeWord w = .ok i ↔
      manualField w 0 6 = primaryOpcode ∧ manualBit w 31 = false ∧ ∃ d n, directionOf (manualField w 21 10) = some d ∧
        sprOfNumber (swapHalves (manualField w 11 10)) = some n ∧ Instr.ofParts d n (manualField w 6 5).toNat = i := by
  unfold decodeWord
  constructor
  · intro h
    split at h
    · cases h
    rename_i hOp
    split at h
    · cases h
    rename_i d hDir
    split at h
    · cases h
    rename_i hLast
    dsimp only at h
    split at h <;> cases h
    rename_i n hSpr
    exact ⟨not_not.mp hOp, Bool.eq_false_iff.mpr hLast, d, n, hDir, hSpr, rfl⟩
  · rintro ⟨hOp, hLast, d, n, hDir, hSpr, rfl⟩
    simp [hOp, hLast, hDir, hSpr]

/-- R63: a word decodes to the instruction of the given parts exactly if it is that instruction's encoding. -/
theorem decodeWord_eq_ok_iff_encode {w : Word} {i : Instr} : decodeWord w = .ok i ↔ i.wf = true ∧ encode i = w := by
  rw [decodeWord_eq_ok, wf_iff]
  constructor
  · rintro ⟨hOp, hLast, d, n, hDir, hSpr, rfl⟩
    have hNumber := sprOfNumber_eq_some.mp hSpr
    refine ⟨by rw [gprNumber_ofParts]; exact (manualField w 6 5).isLt, ?_⟩
    rw [encode_ofParts, append_fields_eq_iff, manualField_bit31, BitVec.ofNat_toNat, BitVec.setWidth_eq, hNumber,
      swapHalves_swapHalves]
    exact ⟨hOp, rfl, rfl, directionOf_eq_some.mp hDir, hLast⟩
  · rintro ⟨hReg, hEncode⟩
    rw [← ofParts_parts i] at hReg hEncode ⊢
    generalize i.parts.1 = d, i.parts.2.1 = n, i.parts.2.2 = r at hReg hEncode ⊢
    rw [gprNumber_ofParts] at hReg
    rw [encode_ofParts, append_fields_eq_iff, manualField_bit31] at hEncode
    obtain ⟨hOp, hField, hSpr, hXo, hLast⟩ := hEncode
    refine ⟨hOp, hLast, d, n, directionOf_eq_some.mpr hXo, sprOfNumber_eq_some.mpr ?_, ?_⟩
    · rw [hSpr, swapHalves_swapHalves]
    · rw [hField, BitVec.toNat_ofNat, Nat.mod_eq_of_lt hReg]

/-- The bytes of a word, most significant first, make up the word. -/
theorem bigEndianWord_bigEndianBytes (w : Word) :
    bigEndianWord (w.extractLsb' 24 8) (w.extractLsb' 16 8) (w.extractLsb' 8 8) (w.extractLsb' 0 8) = w := by
  have hLt := w.isLt
  rw [bigEndianWord, ← BitVec.toNat_inj, toNat_append_eq_add, toNat_append_eq_add, toNat_append_eq_add]
  simp only [BitVec.extractLsb'_toNat]
  omega

theorem decodeBytes_bigEndianBytes {w : Word} {i : Instr} (h : decodeWord w = .ok i) (rest : List Byte) :
    decodeBytes (bigEndianBytes w ++ rest) = .ok (i, rest) := by
  simp only [bigEndianBytes, List.cons_append, List.nil_append, decodeBytes, bigEndianWord_bigEndianBytes, h]

/-- Settles O1: a well-formed instruction's word has that instruction's fields, which is what the decoder reads. -/
theorem decodeOfEncodeIsTheInstr : Obligations.DecodeOfEncodeIsTheInstr := by
  unfold Obligations.DecodeOfEncodeIsTheInstr
  intro i hi
  have hDecode := decodeWord_eq_ok_iff_encode.mpr ⟨hi, rfl⟩
  exact ⟨hDecode, decodeBytes_bigEndianBytes hDecode⟩

/-- Settles O2: the other direction of the same equivalence. -/
theorem decodedWordIsItsOwnEncoding : Obligations.DecodedWordIsItsOwnEncoding := by
  unfold Obligations.DecodedWordIsItsOwnEncoding
  exact fun w i => decodeWord_eq_ok_iff_encode.mp

/-- "Add r << 21 for general register r" (30_encoding.md section 3). -/
theorem encode_or_register (d : Direction) (n : SprName) : ∀ r < 32,
    encode (Instr.ofParts d n 0) ||| BitVec.ofNat 32 r <<< 21 = encode (Instr.ofParts d n r) := by
  cases d <;> cases n <;> decide

theorem decodeWord_row (d : Direction) (n : SprName) {r : Nat} (hr : r < 32) {w : Word}
    (hw : encode (Instr.ofParts d n 0) = w) : decodeWord (w ||| BitVec.ofNat 32 r <<< 21) = .ok (Instr.ofParts d n r) := by
  rw [decodeWord_eq_ok_iff_encode, ← hw, encode_or_register d n r hr, wf_iff, gprNumber_ofParts]
  exact ⟨hr, rfl⟩

/-- Settles O3: each of the 20 words is the encoding of its row with register 0. -/
theorem tableWordsDecodeToTheirRows : Obligations.TableWordsDecodeToTheirRows := by
  unfold Obligations.TableWordsDecodeToTheirRows
  intro row hRow r hr
  have hParts : row.2 r = Instr.ofParts (row.2 0).parts.1 (row.2 0).parts.2.1 r := by
    fin_cases hRow <;> rfl
  have hWord : encode (Instr.ofParts (row.2 0).parts.1 (row.2 0).parts.2.1 0) = row.1 := by
    fin_cases hRow <;> rfl
  rw [hParts]
  exact decodeWord_row _ _ hr hWord

/-- Settles O4: the ten rows, one by one. -/
theorem sprNumbersAndBusAddresses : Obligations.SprNumbersAndBusAddresses := by
  unfold Obligations.SprNumbersAndBusAddresses
  decide

/-- Settles O5: the swapped number has the low half as its upper five bits, and stands four bits higher. -/
theorem busAddressSwapsTheHalves : Obligations.BusAddressSwapsTheHalves := by
  unfold Obligations.BusAddressSwapsTheHalves
  intro n
  have hLt := n.isLt
  have hSwap : (swapHalves n).toNat = n.toNat % 32 * 32 + n.toNat / 32 := by
    rw [swapHalves, toNat_append_eq_add, BitVec.extractLsb'_toNat, BitVec.extractLsb'_toNat]
    omega
  rw [ubAddr, BitVec.toNat_shiftLeft, BitVec.toNat_setWidth, hSwap]
  omega

end Sys2Proof.Machine

/-! ### Regions

The legal sizes are the powers of two, and a well-formed region is a range of addresses (10_state.md R16,
41_impu_fetch_check.md R103). -/

namespace Sys2Proof.Machine

/-- R16: RS passes the test exactly if RS + 1 is one of the 21 powers of two. -/
theorem legalRs_iff (rs : BitVec 20) : legalRs rs = true ↔ ∃ k ≤ 20, rs.toNat + 1 = 2 ^ k := by
  have hLt : rs.toNat + 1 ≤ 2 ^ 20 := rs.isLt
  have hTestNat : legalRs rs = true ↔ (rs.toNat + 1) % 2 ^ 20 &&& rs.toNat = 0 := by
    rw [legalRs, beq_iff_eq, ← BitVec.toNat_inj, BitVec.toNat_and, BitVec.toNat_add]
    rfl
  rw [hTestNat]
  obtain hMax | hMax := hLt.eq_or_lt
  · rw [hMax, Nat.mod_self, Nat.zero_and]
    exact iff_of_true rfl ⟨20, le_rfl, rfl⟩
  · have hTest := Nat.and_sub_one_eq_zero_iff_isPowerOfTwo (Nat.succ_ne_zero rs.toNat)
    rw [Nat.mod_eq_of_lt hMax]
    refine hTest.trans ⟨fun ⟨k, (hk : rs.toNat + 1 = 2 ^ k)⟩ => ⟨k, ?_, hk⟩, fun ⟨k, _, hk⟩ => ⟨k, hk⟩⟩
    have hLe : 2 ^ k ≤ 2 ^ 20 := hk ▸ hLt
    exact (Nat.pow_le_pow_iff_right one_lt_two).mp hLe

/-- Settles O32: the test of RS, and 4096 bytes for each step of RS. -/
theorem legalSizesArePowersOfTwo : Obligations.LegalSizesArePowersOfTwo := by
  unfold Obligations.LegalSizesArePowersOfTwo
  refine fun rs => ⟨legalRs_iff rs, fun k hk => ?_⟩
  rw [regionSize, hk, Nat.pow_add, Nat.mul_comm]

section LegalSize

variable {rs : BitVec 20} {k : Nat} (hk : rs.toNat + 1 = 2 ^ k)
include hk

/-- Masking with the complement of a legal RS rounds down to a multiple of the size. -/
theorem toNat_and_not_of_legal (v : BitVec 20) : (v &&& ~~~ rs).toNat = v.toNat / 2 ^ k * 2 ^ k := by
  have hBit (i : Nat) : rs.getLsbD i = decide (i < k) := by
    rw [BitVec.getLsbD, Nat.eq_sub_of_add_eq hk, Nat.testBit_two_pow_sub_one]
  refine Nat.eq_of_testBit_eq fun i => ?_
  rw [BitVec.testBit_toNat, BitVec.getLsbD_and, BitVec.getLsbD_not, hBit, Nat.testBit_mul_two_pow, Nat.testBit_div_two_pow]
  obtain hi | hi := lt_or_ge i k
  · simp [hi, hi.not_ge]
  · have hTop : 20 ≤ i → v.getLsbD i = false := BitVec.getLsbD_of_ge v i
    rw [Nat.sub_add_cancel hi, BitVec.testBit_toNat]
    obtain h | h := lt_or_ge i 20
    · simp [hi, hi.not_gt, h]
    · simp [hTop h]

/-- A base with no 1 in a legal RS is a multiple of the size. -/
theorem toNat_mod_of_legal {ra : BitVec 20} (h : ra &&& rs = 0) : ra.toNat % 2 ^ k = 0 := by
  rw [← Nat.and_two_pow_sub_one_eq_mod, ← Nat.eq_sub_of_add_eq hk, ← BitVec.toNat_and, h]
  rfl

end LegalSize

/-- Rounding down to a multiple of `m` gives `b` exactly for the `m` numbers from `b` on. -/
theorem div_mul_eq_iff {n m b : Nat} (hm : 0 < m) (hb : b % m = 0) : n / m * m = b ↔ b ≤ n ∧ n < b + m := by
  obtain ⟨c, rfl⟩ := Nat.dvd_of_mod_eq_zero hb
  rw [Nat.mul_comm m c, Nat.mul_left_inj hm.ne', Nat.div_eq_iff hm]
  omega

/-- Settles O31: the comparison rounds the upper 20 address bits down to a multiple of the size, and compares with the base. -/
theorem matchIsTheAddressRange : Obligations.MatchIsTheAddressRange := by
  unfold Obligations.MatchIsTheAddressRange
  intro f x ea hWf
  obtain ⟨hLegal, hAligned⟩ := Bool.and_eq_true_iff.mp hWf
  obtain ⟨k, -, hk⟩ := (legalRs_iff _).mp hLegal
  have hBase := toNat_mod_of_legal hk (eq_of_beq hAligned)
  have hHigh : (manualField ea 0 20).toNat = ea.toNat / 4096 := by
    have hLt := ea.isLt
    rw [toNat_manualField]
    omega
  rw [regionMatches, beq_iff_eq, ← BitVec.toNat_inj, toNat_and_not_of_legal hk, div_mul_eq_iff (Nat.two_pow_pos k) hBase,
    hHigh, regionBase, toNat_append_eq_add, regionSize, hk, show (0 : BitVec 12).toNat = 0 from rfl]
  generalize 2 ^ k = m, (fieldRa (f.rba x)).toNat = b
  omega

end Sys2Proof.Machine

/-! ### Register access by instruction and by event

The three ways in which an instruction of the table ends (43_spr_access.md section 1), and the whole next states of the two that a
supervisor's complete in (sections 2 and 3). -/

namespace Sys2Proof.Machine

theorem gprNumber_mtspr (n : SprName) (r : Nat) : (Instr.mtspr n r).gprNumber = r := gprNumber_ofParts .write n r

theorem gprNumber_mfspr (n : SprName) (r : Nat) : (Instr.mfspr n r).gprNumber = r := gprNumber_ofParts .read n r

section Access

variable {s : State}

theorem accessSpr_clocksOff (hClocks : s.clocksOff = true) (priv : Priv) (done : State) :
    accessSpr priv s done = .refused .clocksOff := by
  simp [accessSpr, hClocks]

theorem accessSpr_user (hClocks : s.clocksOff = false) (done : State) : accessSpr .user s done = .userSprFault := by
  simp [accessSpr, hClocks]

theorem accessSpr_supervisor (hClocks : s.clocksOff = false) (done : State) : accessSpr .supervisor s done = .done done := by
  simp [accessSpr, hClocks]

/-- A supervisor's mtspr writes the register and goes on. -/
theorem exec_mtspr_supervisor (hPriv : s.core.mode.priv = .supervisor) (hClocks : s.clocksOff = false) (n : SprName) {r : Nat}
    (hr : r < 32) : exec (Instr.mtspr n r) s = .next (advancePc (storeSpr n s.core.gpr[r] s)) := by
  rw [exec_mtspr, mtsprOp, readGpr_of_lt _ hr, hPriv]
  simp only [accessSpr_supervisor hClocks]

/-- A supervisor's mfspr reads the register and goes on. -/
theorem exec_mfspr_supervisor (hPriv : s.core.mode.priv = .supervisor) (hClocks : s.clocksOff = false) (n : SprName) {r : Nat}
    (hr : r < 32) :
    exec (Instr.mfspr n r) s = .next (advancePc { loadSpr n s with core := writeGpr s.core r (sprValue n s) }) := by
  rw [exec_mfspr, mfsprOp, readGpr_of_lt _ hr, hPriv]
  simp only [accessSpr_supervisor hClocks]
  rfl

/-- A well-formed instruction makes an access to a module register, and its outcome is that of the access. -/
theorem exec_eq_access {i : Instr} (hi : i.wf = true) (s : State) :
    ∃ (done : State) (finish : State → State), exec i s = match accessSpr s.core.mode.priv s done with
      | .done t => .next (finish t)
      | .userSprFault => takeUserSprFault s
      | .refused r => .refused r := by
  rw [wf_iff] at hi
  obtain ⟨n, r, rfl, hExec⟩ | ⟨n, r, rfl, hExec⟩ := exec_cases i s <;> rw [hExec]
  · rw [gprNumber_mtspr] at hi
    rw [mtsprOp, readGpr_of_lt _ hi]
    exact ⟨_, _, rfl⟩
  · rw [gprNumber_mfspr] at hi
    rw [mfsprOp, readGpr_of_lt _ hi]
    exact ⟨_, fun t => advancePc { t with core := writeGpr t.core r (sprValue n s) }, rfl⟩

/-- A well-formed instruction of a user takes the exception of a user's access (R141). -/
theorem exec_user {i : Instr} (hi : i.wf = true) (hPriv : s.core.mode.priv = .user) (hClocks : s.clocksOff = false) :
    exec i s = takeUserSprFault s := by
  obtain ⟨done, finish, hExec⟩ := exec_eq_access hi s
  rw [hExec, hPriv, accessSpr_user hClocks]

/-- In standby a well-formed instruction is refused (R89). -/
theorem exec_clocksOff {i : Instr} (hi : i.wf = true) (hClocks : s.clocksOff = true) : exec i s = .refused .clocksOff := by
  obtain ⟨done, finish, hExec⟩ := exec_eq_access hi s
  rw [hExec, accessSpr_clocksOff hClocks]

/-- A user's access as an event is reported, and nothing else happens (R141). -/
theorem accessEvent_user (hClocks : s.clocksOff = false) (done : State) :
    accessEvent (accessSpr .user s done) s = .next { s with out := { s.out with userSprFault := true } } := by
  rw [accessSpr_user hClocks, accessEvent]

end Access

/-- If an instruction goes on, a supervisor's write or read was done, or the user's exception was taken. -/
theorem exec_next {i : Instr} {s t : State} (h : exec i s = .next t) :
    s.clocksOff = false ∧
    ((s.core.mode.priv = .supervisor ∧ ∃ n r v, i = Instr.mtspr n r ∧ t = advancePc (storeSpr n v s)) ∨
     (s.core.mode.priv = .supervisor ∧ ∃ n r, t = advancePc { loadSpr n s with core := writeGpr s.core r (sprValue n s) }) ∨
     (s.core.mode.priv = .user ∧ takeUserSprFault s = .next t)) := by
  obtain ⟨n, r, hi, hExec⟩ | ⟨n, r, -, hExec⟩ := exec_cases i s <;> rw [hExec] at h
  · obtain ⟨hc, hp, v, -, ht⟩ | ⟨hc, hp, hFault⟩ := mtsprOp_next h
    · exact ⟨hc, .inl ⟨hp, n, r, v, hi, ht⟩⟩
    · exact ⟨hc, .inr (.inr ⟨hp, hFault⟩)⟩
  · obtain ⟨hc, hp, ht⟩ | ⟨hc, hp, hFault⟩ := mfsprOp_next h
    · exact ⟨hc, .inr (.inl ⟨hp, n, r, ht⟩)⟩
    · exact ⟨hc, .inr (.inr ⟨hp, hFault⟩)⟩

/-- Settles O6: the supervisor's mtspr is the store and the step of 4. -/
theorem supervisorMtsprCompletes : Obligations.SupervisorMtsprCompletes := by
  unfold Obligations.SupervisorMtsprCompletes
  intro n r hr s hPriv hClocks
  exact exec_mtspr_supervisor hPriv hClocks n hr

/-- Settles O7: the supervisor's mfspr is the read, the write of x[rD] and the step of 4. -/
theorem supervisorMfsprCompletes : Obligations.SupervisorMfsprCompletes := by
  unfold Obligations.SupervisorMfsprCompletes
  intro n r hr s hPriv hClocks
  exact ⟨_, rfl, exec_mfspr_supervisor hPriv hClocks n hr⟩

/-! #### What mtspr makes of the fields -/

theorem manualField_and (v m : Word) (a w : Nat) : manualField (v &&& m) a w = manualField v a w &&& manualField m a w :=
  BitVec.extractLsb'_and

theorem manualBit_or (v m : Word) (a : Nat) : manualBit (v ||| m) a = (manualBit v a || manualBit m a) :=
  BitVec.getLsbD_or

theorem manualBit_and (v m : Word) (a : Nat) : manualBit (v &&& m) a = (manualBit v a && manualBit m a) :=
  BitVec.getLsbD_and

/-- A field that the mask covers is kept. -/
theorem manualField_and_of_covered {m : Word} {a w : Nat} (h : manualField m a w = BitVec.allOnes w) (v : Word) :
    manualField (v &&& m) a w = manualField v a w := by
  rw [manualField_and, h, BitVec.and_allOnes]

theorem manualBit_and_of_covered {m : Word} {a : Nat} (h : manualBit m a = true) (v : Word) :
    manualBit (v &&& m) a = manualBit v a := by
  rw [manualBit_and, h, Bool.and_true]

theorem namedMask_regionBaseSpr (x : Fin 4) : namedMask (regionBaseSpr x) = 0xFFFFF000 := by
  fin_cases x <;> rfl

theorem namedMask_regionAttrSpr (x : Fin 4) : namedMask (regionAttrSpr x) = 0xFFFFF000 ||| maskPp ||| maskG := by
  fin_cases x <;> rfl

/-- The registers after a supervisor's mtspr: the addressed one holds its named fields of x[rS], the others stay. -/
theorem exists_exec_mtspr {s : State} (hPriv : s.core.mode.priv = .supervisor) (hClocks : s.clocksOff = false) (n : SprName)
    {r : Nat} (hr : r < 32) :
    ∃ t, exec (Instr.mtspr n r) s = .next t ∧ t.spr.get n = s.core.gpr[r] &&& namedMask n ∧
      ∀ m, m ≠ n → t.spr.get m = s.spr.get m :=
  ⟨_, exec_mtspr_supervisor hPriv hClocks n hr, SprFile.get_set_self .., fun _ hm => SprFile.get_set_ne _ _ hm⟩

theorem decodeWord_mtspr_regionBaseSpr (x : Fin 4) {r : Nat} (hr : r < 32) :
    decodeWord (0x7C10C3A6 + BitVec.ofNat 32 x.val <<< 16 ||| BitVec.ofNat 32 r <<< 21) = .ok (Instr.mtspr (regionBaseSpr x) r) :=
  decodeWord_row .write _ hr (by revert x; decide)

theorem decodeWord_mtspr_regionAttrSpr (x : Fin 4) {r : Nat} (hr : r < 32) :
    decodeWord (0x7C10CBA6 + BitVec.ofNat 32 x.val <<< 16 ||| BitVec.ofNat 32 r <<< 21) = .ok (Instr.mtspr (regionAttrSpr x) r) :=
  decodeWord_row .write _ hr (by revert x; decide)

theorem wellFormedRegion_of_unaligned {f : SprFile} {x : Fin 4} (h : fieldRa (f.rba x) &&& fieldRs (f.ra x) ≠ 0) :
    wellFormedRegion f x = false := by
  rw [wellFormedRegion, beq_eq_false_iff_ne.mpr h, Bool.and_false]

theorem wellFormedRegion_of_not_legalRs {f : SprFile} {x : Fin 4} (h : legalRs (fieldRs (f.ra x)) = false) :
    wellFormedRegion f x = false := by
  rw [wellFormedRegion, h, Bool.false_and]

/-- Settles O8: MI_RBAx keeps bits 0:19 of x[rS], and MI_RAx stays. -/
theorem mtsprRegionBaseSetsRa : Obligations.MtsprRegionBaseSetsRa := by
  unfold Obligations.MtsprRegionBaseSetsRa
  intro x r hr s hPriv hClocks
  obtain ⟨t, hExec, hSelf, hOther⟩ := exists_exec_mtspr hPriv hClocks (regionBaseSpr x) hr
  rw [← SprFile.rba_eq_get, namedMask_regionBaseSpr] at hSelf
  have hRa : fieldRa (t.spr.rba x) = manualField s.core.gpr[r] 0 20 := by
    rw [hSelf]
    exact manualField_and_of_covered (by decide) _
  have hAttr : t.spr.ra x = s.spr.ra x := by
    rw [SprFile.ra_eq_get, hOther _ (regionBaseSpr_ne_regionAttrSpr x x).symm, SprFile.ra_eq_get]
  refine ⟨decodeWord_mtspr_regionBaseSpr x hr, t, hExec, hRa, hOther, fun ea => ?_, fun hUnaligned => ?_⟩
  · rw [regionMatches, hRa, hAttr]
  · exact wellFormedRegion_of_unaligned (by rwa [hRa, hAttr])

/-- Settles O9: MI_RAx keeps RS, PP and G of x[rS]. -/
theorem mtsprRegionAttributesSetsRsPpG : Obligations.MtsprRegionAttributesSetsRsPpG := by
  unfold Obligations.MtsprRegionAttributesSetsRsPpG
  intro x r hr s hPriv hClocks
  obtain ⟨t, hExec, hSelf, hOther⟩ := exists_exec_mtspr hPriv hClocks (regionAttrSpr x) hr
  rw [← SprFile.ra_eq_get, namedMask_regionAttrSpr] at hSelf
  have hRs : fieldRs (t.spr.ra x) = manualField s.core.gpr[r] 0 20 := by
    rw [hSelf]
    exact manualField_and_of_covered (by decide) _
  refine ⟨decodeWord_mtspr_regionAttrSpr x hr, t, hExec, hRs, ?_, ?_, hOther, fun hSize => ?_⟩
  · rw [hSelf]
    exact manualField_and_of_covered (by decide) _
  · rw [hSelf]
    exact manualBit_and_of_covered (by decide) _
  · refine wellFormedRegion_of_not_legalRs (Bool.eq_false_iff.mpr fun hLegal => ?_)
    obtain ⟨k, hk, hPow⟩ := (legalRs_iff _).mp hLegal
    exact hSize k hk (by rw [← hRs, hPow])

/-- R20: the four enables are named fields of MI_GRA. -/
theorem namedMask_miGra_enables : ∀ x : Fin 4, manualBit (namedMask .miGra) x.val = true := by decide

/-- Settles O10: MI_GRA keeps the enables, PP and G of x[rS]. -/
theorem mtsprGlobalSetsEnablesPpG : Obligations.MtsprGlobalSetsEnablesPpG := by
  unfold Obligations.MtsprGlobalSetsEnablesPpG
  intro r hr s hPriv hClocks
  obtain ⟨t, hExec, hSelf, hOther⟩ := exists_exec_mtspr hPriv hClocks .miGra hr
  change t.spr.miGra = _ at hSelf
  refine ⟨decodeWord_row .write .miGra hr (by decide), t, hExec, fun x => ?_, ?_, ?_, hOther⟩
  · rw [regionOn, hSelf]
    exact manualBit_and_of_covered (namedMask_miGra_enables x) _
  · rw [hSelf]
    exact manualField_and_of_covered (by decide) _
  · rw [hSelf]
    exact manualBit_and_of_covered (by decide) _

theorem relocate_of_etre_off {f : SprFile} (h : fieldEtre f.bbcmcr = false) (ea : Word) : relocate f ea = .mapped ea false := by
  rw [relocate, h]
  split <;> rfl

/-- Settles O11: BBCMCR keeps BE, ETRE and OERC of x[rS], and relocation reads nothing else. -/
theorem mtsprConfigSetsBeEtreOerc : Obligations.MtsprConfigSetsBeEtreOerc := by
  unfold Obligations.MtsprConfigSetsBeEtreOerc
  intro r hr s hPriv hClocks
  obtain ⟨t, hExec, hSelf, hOther⟩ := exists_exec_mtspr hPriv hClocks .bbcmcr hr
  change t.spr.bbcmcr = _ at hSelf
  have hBe : fieldBe t.spr.bbcmcr = manualBit s.core.gpr[r] 18 := by
    rw [hSelf]
    exact manualBit_and_of_covered (by decide) _
  have hEtre : fieldEtre t.spr.bbcmcr = manualBit s.core.gpr[r] 19 := by
    rw [hSelf]
    exact manualBit_and_of_covered (by decide) _
  have hOerc : fieldOerc t.spr.bbcmcr = manualBit s.core.gpr[r] 20 := by
    rw [hSelf]
    exact manualBit_and_of_covered (by decide) _
  refine ⟨decodeWord_row .write .bbcmcr hr (by decide), t, hExec, hBe, hEtre, hOerc, hOther, fun hOff ea => ?_, fun hOn => ?_⟩
  · exact relocate_of_etre_off (hEtre.trans hOff) ea
  · rw [relocate_of_entry (hEtre.trans hOn) (by decide) (by decide), hOerc]
    cases manualBit s.core.gpr[r] 20 <;> rfl

/-! #### What mfspr reads -/

/-- A word with no 1 outside a mask is kept by the mask. -/
theorem and_eq_self_of_and_not {v m : Word} (h : v &&& ~~~ m = 0) : v &&& m = v := by
  ext i hi
  have hBit := congrArg (fun w : Word => w[i]) h
  simp only [BitVec.getElem_and, BitVec.getElem_not, BitVec.ofNat_eq_ofNat, BitVec.getElem_zero] at hBit ⊢
  cases hv : v[i] <;> simp_all

/-- In the named positions of a canonical register a read returns the register. -/
theorem sprValue_and_namedMask {s : State} (hSpr : s.spr.canonical) (hOnes : s.reservedOnes.reservedOnly) (n : SprName) :
    sprValue n s &&& namedMask n = s.spr.get n := by
  rw [sprValue, BitVec.and_or_distrib_right, and_eq_self_of_and_not (hSpr n), BitVec.and_assoc, hOnes n]
  simp

/-- In a reserved position in which no 1 was written a read of a canonical register returns 0. -/
theorem getLsbD_sprValue_of_reserved {s : State} {n : SprName} {k : Nat} (hSpr : s.spr.canonical)
    (hk : (reservedMask n).getLsbD k = true) (hNone : (s.reservedOnes.get n).getLsbD k = false) :
    (sprValue n s).getLsbD k = false := by
  have hGet := congrArg (BitVec.getLsbD · k) (hSpr n)
  simpa [sprValue, hk, hNone] using hGet

/-- Settles O12: the value read is the canonical register with free bits where a 1 was remembered. -/
theorem mfsprReturnsNamedFields : Obligations.MfsprReturnsNamedFields := by
  unfold Obligations.MfsprReturnsNamedFields
  intro n r hr s hInv hPriv hClocks
  refine ⟨_, sprValue n s, exec_mfspr_supervisor hPriv hClocks n hr, readGpr_writeGpr_self _ _ hr,
    sprValue_and_namedMask hInv.sprCanonical hInv.reservedCanonical n, fun k _ hk hNone => ?_, rfl, rfl, rfl⟩
  exact getLsbD_sprValue_of_reserved hInv.sprCanonical hk hNone

/-- Settles O13: with no 1 in a reserved position the register holds all of x[rS], and a read adds no free bit. -/
theorem mtsprThenMfsprReadsBack : Obligations.MtsprThenMfsprReadsBack := by
  unfold Obligations.MtsprThenMfsprReadsBack
  intro n r k hr hk s hPriv hClocks hReserved hOnes
  have hValue : sprValue n (advancePc (storeSpr n s.core.gpr[r] s)) = s.core.gpr[r] := by
    simp [sprValue, and_eq_self_of_and_not hReserved, hOnes, hReserved]
  refine ⟨_, _, exec_mtspr_supervisor hPriv hClocks n hr,
    exec_mfspr_supervisor (s := advancePc (storeSpr n s.core.gpr[r] s)) hPriv hClocks n hk, ?_⟩
  rw [hValue]
  exact readGpr_writeGpr_self _ _ hk

/-! #### Frames -/

/-- A core in supervisor mode is not in user mode. -/
theorem supervisor_ne_user {p : Priv} (h : p = .supervisor) : p ≠ .user := by
  rw [h]
  exact Priv.noConfusion

/-- Settles O14: a supervisor's mtspr that goes on is the store and the step of 4. -/
theorem mtsprFrame : Obligations.MtsprFrame := by
  unfold Obligations.MtsprFrame
  intro n r s t hPriv hExec
  rw [exec_mtspr] at hExec
  obtain ⟨-, -, v, -, rfl⟩ | ⟨-, hUser, -⟩ := mtsprOp_next hExec
  · exact ⟨fun m hm => ⟨SprFile.get_set_ne _ _ hm, SprFile.get_set_ne _ _ hm⟩, fun _ => rfl, rfl, rfl, rfl, rfl, rfl,
      fun _ => rfl, rfl, rfl, rfl, rfl⟩
  · exact absurd hUser (supervisor_ne_user hPriv)

/-- Settles O15: a supervisor's mfspr that goes on is the read, the write of x[rD] and the step of 4. -/
theorem mfsprFrame : Obligations.MfsprFrame := by
  unfold Obligations.MfsprFrame
  intro n r s t hPriv hExec
  rw [exec_mfspr] at hExec
  obtain ⟨-, -, rfl⟩ | ⟨-, hUser, -⟩ := mfsprOp_next hExec
  · exact ⟨rfl, rfl, rfl, fun k hk => readGpr_writeGpr_ne _ _ hk, rfl, rfl, rfl, rfl, rfl, fun _ => rfl, rfl, rfl, rfl⟩
  · exact absurd hUser (supervisor_ne_user hPriv)

/-! #### Accesses without effect -/

/-- R132: with ETRE = 1 and MSR[IP] = 0 no exception is taken. -/
theorem takeException_refused {s : State} (hEtre : fieldEtre s.spr.bbcmcr = true) (hIp : s.core.mode.msrIp = false)
    (i : BitVec 5) (status : Option Word) : takeException i status s = .refused .relocationNeedsIp := by
  rw [takeException, hEtre, hIp]
  rfl

/-- Otherwise an exception is taken. -/
theorem takeException_taken {s : State} (h : fieldEtre s.spr.bbcmcr = false ∨ s.core.mode.msrIp = true) (i : BitVec 5)
    (status : Option Word) :
    takeException i status s = .next
      { s with
        core := { s.core with pc := vectorAddr s.core.mode.msrIp i, mode := entryMode s.ctr, srr1 := srr1After status s.ctr }
        ctr := s.ctr + 1 } := by
  refine if_neg fun hBoth => ?_
  obtain ⟨hEtre, hIp⟩ := Bool.and_eq_true_iff.mp hBoth
  obtain h | h := h
  · exact Bool.false_ne_true (h.symm.trans hEtre)
  · exact Bool.false_ne_true ((congrArg (!·) h).symm.trans hIp)

/-- Settles O16: the instruction takes the exception, and taking it changes the core's pc, mode and SRR1 alone. -/
theorem userAccessTakesException : Obligations.UserAccessTakesException := by
  unfold Obligations.UserAccessTakesException
  intro i s hi hPriv hClocks hTaken
  rw [exec_user hi hPriv hClocks]
  exact ⟨_, takeException_taken (s := { s with out := { s.out with userSprFault := true } }) hTaken _ _, rfl, rfl, rfl, rfl,
    rfl, rfl, fun _ => rfl, fun _ => rfl⟩

/-- Settles O17: both events are refused inside the core, with UserSprFault as the only output. -/
theorem userAccessEventRaisesUserSprFault : Obligations.UserAccessEventRaisesUserSprFault := by
  unfold Obligations.UserAccessEventRaisesUserSprFault
  intro n v rest s hClocks hInputs
  suffices h : step s = .next { freshOutput { s with inputs := rest } with out := { Output.none with userSprFault := true } } from
    ⟨_, h, rfl, rfl, rfl, rfl, rfl, rfl⟩
  obtain hi | hi := hInputs <;> refine step_event hi (congrArg some ?_)
  · rw [handleMtSpr, sprOfNumber_sprNumber]
    exact accessEvent_user (s := freshOutput { s with inputs := rest }) hClocks _
  · rw [handleMfSpr, sprOfNumber_sprNumber]
    exact accessEvent_user (s := freshOutput { s with inputs := rest }) hClocks _

/-- Settles O19: every instruction is an access, and none has a meaning in standby. -/
theorem accessInStandbyIsRefused : Obligations.AccessInStandbyIsRefused := by
  unfold Obligations.AccessInStandbyIsRefused
  exact fun i s hi hClocks => exec_clocksOff hi hClocks

theorem sprNumber_mem (n : SprName) : (sprNumber n).toNat ∈ [784, 785, 786, 787, 816, 817, 818, 819, 528, 560] := by
  cases n <;> decide

/-- Settles O20: such a number addresses no register. -/
theorem otherSprNumbersAreRefused : Obligations.OtherSprNumbersAreRefused := by
  unfold Obligations.OtherSprNumbersAreRefused
  intro n v priv rest s hOther hInputs
  have hNone : sprOfNumber n = none := by
    rw [Option.eq_none_iff_forall_ne_some]
    intro r hr
    rw [← sprOfNumber_eq_some.mp hr] at hOther
    exact hOther (sprNumber_mem r)
  obtain hi | hi := hInputs <;> refine step_event hi (congrArg some ?_)
  · rw [handleMtSpr, hNone]
  · rw [handleMfSpr, hNone]

end Sys2Proof.Machine

/-! ### Relocation of every vector, and outside the window

Any of the 32 vectors is an entry of the branch table (42_exception_relocation.md R124 to R126), and only addresses in the window are
relocated (R128). -/

namespace Sys2Proof.Machine

/-- R124: the 32 multiples of 0x100 in the window are entries, and their number is the multiple. -/
theorem entry_of_vector : ∀ i < 32, inVectorWindow (BitVec.ofNat 32 (0xFFF00000 + 256 * i)) = true ∧
    betweenEntries (BitVec.ofNat 32 (0xFFF00000 + 256 * i)) = false ∧
    vectorNumber (BitVec.ofNat 32 (0xFFF00000 + 256 * i)) = BitVec.ofNat 5 i := by
  decide

/-- R124 to R126: the entries lie 8 bytes apart. -/
theorem tableOffset_ofNat : ∀ i < 32, ∀ oerc : Bool,
    tableOffset oerc (BitVec.ofNat 5 i) = BitVec.ofNat 32 (8 * i + if oerc ∧ i ≠ 1 then 0x8000 else 0) := by
  decide

/-- Settles O40: each vector is an entry, at the offset its number gives. -/
theorem vectorsMapEightBytesApart : Obligations.VectorsMapEightBytesApart := by
  unfold Obligations.VectorsMapEightBytesApart
  intro f i hi hEtre
  obtain ⟨hWindow, hEntry, hNumber⟩ := entry_of_vector i hi
  rw [relocate_of_entry hEtre hWindow hEntry, hNumber, tableOffset_ofNat i hi]

theorem relocate_of_not_window {f : SprFile} {ea : Word} (h : inVectorWindow ea = false) : relocate f ea = .mapped ea false := by
  rw [relocate, h]
  rfl

/-- Settles O43: such an address is not in the window. -/
theorem outsideTheWindowIsUntouched : Obligations.OutsideTheWindowIsUntouched := by
  unfold Obligations.OutsideTheWindowIsUntouched
  intro f ea hOutside
  refine relocate_of_not_window (Bool.eq_false_iff.mpr fun hWindow => ?_)
  obtain ⟨hLow, hHigh⟩ := (inVectorWindow_iff ea).mp hWindow
  omega

end Sys2Proof.Machine

/-! ### The Fetch event

What a fetch comes to by the verdict and the relocation of its request, and the step of a Fetch event as that outcome
(40_modes_of_operation.md R93). -/

namespace Sys2Proof.Machine

/-! #### The outcome of a request -/

section Outcome

variable {f : SprFile} {k : Nat} {q : FetchRequest}

theorem fetchAccess_bigEndian {v : Verdict} (hv : requestVerdict f k q = .ok v) :
    fetchAccess f false k q = .ok (decideFetch f q v (requestReloc f k q)) := by
  simp only [fetchAccess, hv, Bool.false_and, Bool.false_eq_true, if_false]

theorem fetchAccess_of_verdict {v : Verdict} (hDp : q.dp = false) (hv : impuCheck f q.ea q.priv q.msrIr = .ok v) :
    fetchAccess f false k q = .ok (decideFetch f q v (relocate f q.ea)) := by
  rw [fetchAccess_bigEndian ((requestVerdict_of_not_dp hDp).trans hv), requestReloc_of_not_dp hDp]

/-- A request the IMPU refuses is refused in big-endian operation, to the debug port too. -/
theorem fetchAccess_of_refused {r : Refusal} (hr : impuCheck f q.ea q.priv q.msrIr = .error r) :
    fetchAccess f false k q = .error r := by
  simp only [fetchAccess, requestVerdict, hr, Bool.false_and, Bool.false_eq_true, if_false]

/-- R46: in little-endian operation BE = 1 refuses every fetch. -/
theorem fetchAccess_littleEndian_of_be (hBe : fieldBe f.bbcmcr = true) : fetchAccess f true k q = .error .littleEndian := by
  rw [fetchAccess_littleEndian, hBe, Bool.true_or, if_pos rfl]

theorem requestInternal_of_mapped {a : Word} {inTable : Bool} (hDp : q.dp = false)
    (hReloc : relocate f q.ea = .mapped a inTable) : requestInternal q (requestReloc f k q) = isInternal a := by
  rw [requestReloc_of_not_dp hDp, hReloc, requestInternal]

/-- R46: in little-endian operation a fetch from internal memory is refused. -/
theorem fetchAccess_littleEndian_of_internal {a : Word} {inTable : Bool} (hDp : q.dp = false)
    (hReloc : relocate f q.ea = .mapped a inTable) (hInternal : isInternal a = true) :
    fetchAccess f true k q = .error .littleEndian := by
  rw [fetchAccess_littleEndian, requestInternal_of_mapped hDp hReloc, hInternal, Bool.or_true, if_pos rfl]

theorem fetchAccess_littleEndian_of_external {a : Word} {inTable : Bool} (hDp : q.dp = false)
    (hReloc : relocate f q.ea = .mapped a inTable) (hBe : fieldBe f.bbcmcr = false) (hInternal : isInternal a = false) :
    fetchAccess f true k q = fetchAccess f false k q := by
  rw [fetchAccess_littleEndian, requestInternal_of_mapped hDp hReloc, hInternal, hBe]
  rfl

/-- With every enabled region well formed a request has a verdict. -/
theorem exists_requestVerdict (hWf : enabledRegionsWellFormed f = true) : ∃ v, requestVerdict f k q = .ok v := by
  have hCheck : ∃ v, impuCheck f q.ea q.priv q.msrIr = .ok v := by
    cases q.msrIr with
    | false => exact ⟨_, rfl⟩
    | true => exact ⟨_, impuCheck_of_wellFormed hWf ..⟩
  obtain ⟨v, hv⟩ := hCheck
  unfold requestVerdict
  rw [hv]
  cases v with
  | allowed => exact ⟨_, rfl⟩
  | guardedStorage | protectedStorage =>
    dsimp only
    split <;> exact ⟨_, rfl⟩

/-- What goes out is the request's access: uncancelled if it is allowed and mapped, otherwise marked. -/
theorem ubus_decideFetch {v : Verdict} {r : Reloc} {out : Output} {u : UbusFetch}
    (h : (fetchOutput (decideFetch f q v r) out).ubus = some u) :
    (v = .allowed ∧ (∃ a b, r = .mapped a b) ∧ u = ubusAccess f q r false) ∨ u = ubusAccess f q r true := by
  have hDelivered : deliveredAccess f q r = some u → u = ubusAccess f q r true := by
    intro hd
    unfold deliveredAccess at hd
    split at hd <;> cases hd
    rfl
  cases v with
  | guardedStorage | protectedStorage => exact .inr (hDelivered h)
  | allowed =>
    cases r with
    | gap => exact .inr (hDelivered h)
    | mapped a b => exact .inl ⟨rfl, ⟨a, b, rfl⟩, (Option.some.inj h).symm⟩

/-- A fetch that is a violation is cancelled. -/
theorem cancelled_of_violation {v : Verdict} {r : Reloc} {out : Output} {u : UbusFetch} (hv : v ≠ .allowed)
    (h : (fetchOutput (decideFetch f q v r) out).ubus = some u) : u.cancelled = true := by
  obtain ⟨hAllowed, -⟩ | rfl := ubus_decideFetch h
  · exact absurd hAllowed hv
  · rfl

/-- R83, R84: whatever goes out carries the burst request and the three attributes of its request. -/
theorem attributes_of_ubus {v : Verdict} {r : Reloc} {out : Output} {u : UbusFetch}
    (h : (fetchOutput (decideFetch f q v r) out).ubus = some u) :
    u.burst = (fieldBe f.bbcmcr && !q.dp) ∧ u.sc = q.sc ∧ u.pt = q.pt ∧ u.dp = q.dp := by
  obtain ⟨-, -, rfl⟩ | rfl := ubus_decideFetch h <;> exact ⟨rfl, rfl, rfl, rfl⟩

/-- Whatever goes out for a mapped request carries the mapped address. -/
theorem addr_of_ubus {v : Verdict} {a : Word} {b : Bool} {out : Output} {u : UbusFetch}
    (h : (fetchOutput (decideFetch f q v (.mapped a b)) out).ubus = some u) : u.addr = a := by
  obtain ⟨-, -, rfl⟩ | rfl := ubus_decideFetch h <;> rfl

end Outcome

/-! #### The step of a Fetch event -/

section FetchStep

variable {s : State} {q : FetchRequest} {rest : List Event}

/-- The state after a Fetch event with outcome `o`. -/
def afterFetch (o : FetchOutcome) (rest : List Event) (s : State) : State :=
  { s with
    inputs := rest
    out := fetchOutput o Output.none
    pending := s.pending ++ issuedAccesses o
    ctr := s.ctr + 1 }

theorem handleFetch_ok {o : FetchOutcome} (hClocks : s.clocksOff = false)
    (h : fetchAccess s.spr s.core.mode.littleEndian s.ctr q = .ok o) :
    handleFetch q s = .next
      { s with out := fetchOutput o s.out, pending := s.pending ++ issuedAccesses o, ctr := s.ctr + 1 } := by
  simp only [handleFetch, hClocks, h, Bool.false_eq_true, if_false]

theorem handleFetch_refused {r : Refusal} (hClocks : s.clocksOff = false)
    (h : fetchAccess s.spr s.core.mode.littleEndian s.ctr q = .error r) : handleFetch q s = .refused r := by
  simp only [handleFetch, hClocks, h, Bool.false_eq_true, if_false]

theorem step_fetch (hInputs : s.inputs = .fetch q :: rest) :
    step s = handleFetch q (freshOutput { s with inputs := rest }) :=
  step_event hInputs rfl

theorem step_fetch_ok {o : FetchOutcome} (hInputs : s.inputs = .fetch q :: rest) (hClocks : s.clocksOff = false)
    (h : fetchAccess s.spr s.core.mode.littleEndian s.ctr q = .ok o) : step s = .next (afterFetch o rest s) :=
  (step_fetch hInputs).trans (handleFetch_ok (s := freshOutput { s with inputs := rest }) hClocks h)

theorem step_fetch_refused {r : Refusal} (hInputs : s.inputs = .fetch q :: rest) (hClocks : s.clocksOff = false)
    (h : fetchAccess s.spr s.core.mode.littleEndian s.ctr q = .error r) : step s = .refused r :=
  (step_fetch hInputs).trans (handleFetch_refused (s := freshOutput { s with inputs := rest }) hClocks h)

/-- If the step of a Fetch event goes on, a verdict and the relocation decided it. -/
theorem step_fetch_next {t : State} (hInputs : s.inputs = .fetch q :: rest) (h : step s = .next t) :
    s.clocksOff = false ∧ ∃ v, requestVerdict s.spr s.ctr q = .ok v ∧
      t = afterFetch (decideFetch s.spr q v (requestReloc s.spr s.ctr q)) rest s := by
  rw [step_fetch hInputs] at h
  obtain ⟨hClocks, o, ho, rfl⟩ := handleFetch_next h
  obtain ⟨-, v, hv, rfl⟩ := fetchAccess_ok ho
  exact ⟨hClocks, v, hv, rfl⟩

theorem fetchesNext_step_of_verdict {v : Verdict} (hNext : s.fetchesNext q) (hDp : q.dp = false)
    (hv : impuCheck s.spr q.ea q.priv q.msrIr = .ok v) :
    ∃ rest, step s = .next (afterFetch (decideFetch s.spr q v (relocate s.spr q.ea)) rest s) := by
  obtain ⟨rest, -, hStep⟩ := step_fetch_of_verdict hNext hDp hv
  exact ⟨rest, hStep⟩

end FetchStep

/-- Settles O47: the Fetch event changes the inputs, the outputs, the pending list and the draw counter. -/
theorem fetchChangesNoRegister : Obligations.FetchChangesNoRegister := by
  unfold Obligations.FetchChangesNoRegister
  intro s t q ⟨⟨rest, hInputs⟩, hClocks, _⟩ hStep
  obtain ⟨-, v, -, rfl⟩ := step_fetch_next hInputs hStep
  exact ⟨rfl, rfl, rfl, rfl, hClocks, fun _ => rfl⟩

/-- R85, R93: the access that goes out, by verdict and relocation. -/
theorem ubus_decideFetch_eq (f : SprFile) (q : FetchRequest) (v : Verdict) (r : Reloc) :
    (fetchOutput (decideFetch f q v r) Output.none).ubus =
      if v = .allowed ∧ r ≠ .gap then some (ubusAccess f q r false)
      else if q.sc || q.pt then some (ubusAccess f q r true)
      else none := by
  cases v <;> cases r <;> rfl

/-- R93, R177: the error reported, by verdict and relocation. -/
theorem error_decideFetch_eq (f : SprFile) (q : FetchRequest) (v : Verdict) (r : Reloc) :
    (fetchOutput (decideFetch f q v r) Output.none).error =
      match v with
      | .guardedStorage => some (fetchErrorOf .guardedStorage)
      | .protectedStorage => some (fetchErrorOf .protectedStorage)
      | .allowed => if r = .gap then some (fetchErrorOf .relocGap) else none := by
  cases v <;> cases r <;> rfl

/-- A mapped request reports no error exactly if it is allowed. -/
theorem error_eq_none_iff_of_mapped (f : SprFile) (q : FetchRequest) (v : Verdict) (a : Word) (b : Bool) :
    (fetchOutput (decideFetch f q v (.mapped a b)) Output.none).error = none ↔ v = .allowed := by
  rw [error_decideFetch_eq]
  cases v <;> simp

/-- R30: what goes out is pending. -/
theorem issuedAccesses_eq (o : FetchOutcome) (out : Output) : issuedAccesses o = (fetchOutput o out).ubus.toList := by
  cases o <;> rfl

/-- The access of a request that is not to the debug port, with its burst request written out. -/
theorem ubusAccess_of_not_dp {f : SprFile} {q : FetchRequest} (hDp : q.dp = false) (r : Reloc) (cancelled : Bool) :
    ubusAccess f q r cancelled =
      { addr := (ubusAccess f q r cancelled).addr, burst := fieldBe f.bbcmcr, sc := q.sc, pt := q.pt, dp := false,
        cancelled := cancelled } := by
  simp [ubusAccess, burstRequest, hDp]

/-- Settles O44: the event follows its verdict and its relocation, case by case. -/
theorem fetchFollowsItsPseudocode : Obligations.FetchFollowsItsPseudocode := by
  unfold Obligations.FetchFollowsItsPseudocode
  intro s q v hNext hDp hv
  obtain ⟨rest, hStep⟩ := fetchesNext_step_of_verdict hNext hDp hv
  refine ⟨_, (ubusAccess s.spr q (relocate s.spr q.ea) false).addr, hStep, ?_, ?_, ?_, ?_, ?_⟩
  · intro hGap
    rw [hGap]
    rfl
  · intro a b hMapped
    rw [hMapped]
    rfl
  · refine (ubus_decideFetch_eq ..).trans ?_
    rw [ubusAccess_of_not_dp hDp, ubusAccess_of_not_dp hDp _ true]
    rfl
  · exact (error_decideFetch_eq ..).trans (by cases v <;> rfl)
  · exact congrArg (s.pending ++ ·) (issuedAccesses_eq _ Output.none)

/-- Settles O46: the request has a verdict, and no access to the debug port requests a burst. -/
theorem debugFetchIsNeverABurst : Obligations.DebugFetchIsNeverABurst := by
  unfold Obligations.DebugFetchIsNeverABurst
  intro s q ⟨⟨rest, hInputs⟩, hClocks, hBig⟩ (hDebug : q.dp = true) hWf
  obtain ⟨v, hv⟩ := exists_requestVerdict (k := s.ctr) (q := q) hWf
  refine ⟨_, step_fetch_ok hInputs hClocks (by rw [hBig]; exact fetchAccess_bigEndian hv), fun u hu => ?_⟩
  obtain ⟨hBurst, -, -, hDp⟩ := attributes_of_ubus hu
  rw [hBurst, hDp, hDebug]
  exact ⟨Bool.and_false _, rfl⟩

/-- With ETRE = 0 a request goes out at its own address, to the debug port too. -/
theorem requestReloc_of_etre_off {f : SprFile} (h : fieldEtre f.bbcmcr = false) (k : Nat) (q : FetchRequest) :
    requestReloc f k q = .mapped q.ea false := by
  rw [requestReloc, relocate_of_etre_off h]

/-- Settles O37: with ETRE = 0 the request is mapped to its own address. -/
theorem relocationOffChangesNothing : Obligations.RelocationOffChangesNothing := by
  unfold Obligations.RelocationOffChangesNothing
  intro s q ⟨⟨rest, hInputs⟩, _, _⟩ hOff
  refine ⟨relocate_of_etre_off hOff _, fun t u hStep hu => ?_⟩
  obtain ⟨-, v, -, rfl⟩ := step_fetch_next hInputs hStep
  rw [requestReloc_of_etre_off hOff] at hu
  exact addr_of_ubus hu

/-! #### The verdict of a Fetch event -/

theorem impuCheck_msrIr_off (f : SprFile) (ea : Word) (priv : Priv) : impuCheck f ea priv false = .ok .allowed := rfl

/-- Settles O25: the verdict is allowed, and a mapped request is then forwarded. -/
theorem noViolationWithMsrIrClear : Obligations.NoViolationWithMsrIrClear := by
  unfold Obligations.NoViolationWithMsrIrClear
  intro s q hNext hIr hDp
  have hv : impuCheck s.spr q.ea q.priv q.msrIr = .ok .allowed := by rw [hIr, impuCheck_msrIr_off]
  obtain ⟨rest, hStep⟩ := fetchesNext_step_of_verdict hNext hDp hv
  refine ⟨_, hStep, fun hGap => ?_, fun a b hMapped => ?_⟩
  · rw [hGap]
    rfl
  · rw [hMapped]
    exact ⟨rfl, _, rfl, rfl, rfl⟩

theorem ppRefuses_iff (pp : BitVec 2) (priv : Priv) : ppRefuses pp priv = true ↔ pp = 0 ∨ (pp = 1 ∧ priv = .user) := by
  simp [ppRefuses]

/-- R108, R173: the verdict of a guarded region. -/
theorem attrsVerdict_of_guarded {a : RegionAttrs} (hG : a.g = true) (priv : Priv) :
    attrsVerdict a priv = .guardedStorage ∨ (ppRefuses a.pp priv = true ∧ attrsVerdict a priv = .protectedStorage) := by
  rw [attrsVerdict, hG]
  cases ppRefuses a.pp priv <;> cases Config.violationPriorityIsGuarded <;> simp

/-- R107: the verdict of a region that is not guarded. -/
theorem attrsVerdict_of_not_guarded {a : RegionAttrs} (hG : a.g = false) (priv : Priv) :
    attrsVerdict a priv = if ppRefuses a.pp priv then .protectedStorage else .allowed := by
  simp [attrsVerdict, hG]

/-- The step of a checked Fetch event, by the attributes of the region it falls in. -/
theorem checksNext_step {s : State} {q : FetchRequest} (h : s.checksNext q) :
    ∃ rest, step s = .next
      (afterFetch (decideFetch s.spr q (attrsVerdict (fetchAttrs s.spr q.ea) q.priv) (relocate s.spr q.ea)) rest s) := by
  obtain ⟨hNext, hIr, hDp, hWf⟩ := h
  exact fetchesNext_step_of_verdict hNext hDp (by rw [hIr, impuCheck_of_wellFormed hWf])

/-- Settles O26: a guarded region gives one of the two violations, protected only if PP refuses too. -/
theorem guardedRegionRefusesEveryFetch : Obligations.GuardedRegionRefusesEveryFetch := by
  unfold Obligations.GuardedRegionRefusesEveryFetch
  intro s q hNext hG
  obtain ⟨rest, hStep⟩ := checksNext_step hNext
  obtain hv | ⟨hPp, hv⟩ := attrsVerdict_of_guarded hG q.priv <;> rw [hv] at hStep
  · exact ⟨_, hStep, fun u hu => cancelled_of_violation (by decide) hu, .inl rfl⟩
  · exact ⟨_, hStep, fun u hu => cancelled_of_violation (by decide) hu, .inr ⟨(ppRefuses_iff _ _).mp hPp, rfl⟩⟩

theorem fetchErrorOf_injective : Function.Injective fetchErrorOf :=
  Function.LeftInverse.injective (g := FetchError.kind) fetchErrorOf_kind

/-- An allowed fetch reports no violation. -/
theorem error_ne_of_allowed (f : SprFile) (q : FetchRequest) (r : Reloc) {kind : FetchErrorKind} (hKind : kind ≠ .relocGap) :
    (fetchOutput (decideFetch f q .allowed r) Output.none).error ≠ some (fetchErrorOf kind) := by
  rw [error_decideFetch_eq]
  dsimp only
  split
  · exact fun h => hKind (fetchErrorOf_injective (Option.some.inj h)).symm
  · exact (Option.some_ne_none _).symm

/-- Settles O27: without G the verdict is PP's. -/
theorem ppDecidesTheFetch : Obligations.PpDecidesTheFetch := by
  unfold Obligations.PpDecidesTheFetch
  intro s q hNext hG
  obtain ⟨rest, hStep⟩ := checksNext_step hNext
  rw [attrsVerdict_of_not_guarded hG] at hStep
  simp only [← ppRefuses_iff]
  cases hPp : ppRefuses (fetchAttrs s.spr q.ea).pp q.priv with
  | true =>
    rw [hPp] at hStep
    exact ⟨_, hStep, fun _ => ⟨rfl, fun u hu => cancelled_of_violation (by decide) hu⟩, fun h => absurd rfl h⟩
  | false =>
    rw [hPp] at hStep
    exact ⟨_, hStep, fun h => absurd h Bool.false_ne_true,
      fun _ => ⟨error_ne_of_allowed _ _ _ (by decide), error_ne_of_allowed _ _ _ (by decide)⟩⟩

/-- Settles O33: the check refuses while an enabled region is ill-formed. -/
theorem illFormedRegionRefusesTheEvent : Obligations.IllFormedRegionRefusesTheEvent := by
  unfold Obligations.IllFormedRegionRefusesTheEvent
  intro s q x ⟨⟨rest, hInputs⟩, hClocks, hBig⟩ hIr hOn hIll
  have hRegions : enabledRegionsWellFormed s.spr = false := by
    rw [enabledRegionsWellFormed, List.all_eq_false]
    exact ⟨x, by simp [regions_eq_finRange], by simp [hOn, hIll]⟩
  have hCheck : impuCheck s.spr q.ea q.priv q.msrIr = .error .illFormedRegion := by
    rw [impuCheck, hIr, hRegions]
    rfl
  exact step_fetch_refused hInputs hClocks (by rw [hBig, fetchAccess_of_refused hCheck])

/-- Settles O34: only the 20 high bits of an address are compared with a region. -/
theorem lowAddressBitsNeverMatterToProtection : Obligations.LowAddressBitsNeverMatterToProtection := by
  unfold Obligations.LowAddressBitsNeverMatterToProtection
  intro f ea ea' priv msrIr hPage
  have hHigh : manualField ea 0 20 = manualField ea' 0 20 := by
    rw [← BitVec.toNat_inj, toNat_manualField, toNat_manualField]
    exact congrArg (· % 2 ^ 20) hPage
  have hChosen : chosenRegion f ea = chosenRegion f ea' :=
    List.find?_congr fun x _ => by rw [regionMatches, hHigh, regionMatches]
  rw [impuCheck, fetchAttrs, hChosen, impuCheck, fetchAttrs]

end Sys2Proof.Machine

/-! ### The core's cycle

The register values a core's fetch is handled under (43_spr_access.md R163), and what the cycle comes to when its fetch is refused,
forwarded or cancelled (30_encoding.md R68, 60_exceptions.md R171, R174). -/

namespace Sys2Proof.Machine

/-! #### The registers and the outcome of the core's fetch -/

theorem fetchView_of_stale_nil {s : State} (h : s.stale = []) : fetchView s = s.spr := by
  rw [fetchView, h]

/-- R163: one of the register files the state holds. -/
theorem fetchView_mem (s : State) : fetchView s = s.spr ∨ fetchView s ∈ s.stale := by
  unfold fetchView
  split
  · exact .inl rfl
  · obtain h | h := lt_or_ge (Config.fetchAhead s.ctr) (s.spr :: s.stale).length
    · rw [List.getD_eq_getElem _ _ h]
      exact List.mem_cons.mp (List.getElem_mem h)
    · exact .inl (List.getD_eq_default _ _ h)

/-- Settles O24: the view is one of the files kept, and after the discard none but the present one is kept. -/
theorem coreFetchUsesOldOrNewRegisters : Obligations.CoreFetchUsesOldOrNewRegisters := by
  unfold Obligations.CoreFetchUsesOldOrNewRegisters
  exact fun s => ⟨fetchView_mem s, fun rest hInputs => ⟨_, step_event hInputs rfl, rfl, rfl⟩⟩

/-- With nothing fetched ahead a big-endian core's fetch follows its verdict and relocation. -/
theorem coreFetch_of_verdict {s : State} {v : Verdict} (hStale : s.stale = []) (hBig : s.core.mode.littleEndian = false)
    (hDp : s.core.dp = false) (hv : impuCheck s.spr s.core.pc s.core.mode.priv s.core.mode.msrIr = .ok v) :
    coreFetch s = .ok (decideFetch s.spr (coreRequest s.core) v (relocate s.spr s.core.pc)) := by
  rw [coreFetch, fetchView_of_stale_nil hStale, hBig]
  exact fetchAccess_of_verdict (q := coreRequest s.core) hDp hv

section Fetched

variable {s : State} (hClocks : s.clocksOff = false)
include hClocks

theorem fetchInstr_refused {r : Refusal} (h : coreFetch s = .error r) : fetchInstr s = .ends (.refused r) := by
  simp only [fetchInstr, hClocks, h, Bool.false_eq_true, if_false]

theorem fetchInstr_gap {d : Option UbusFetch} (h : coreFetch s = .ok (.cancelled .relocGap d)) :
    fetchInstr s = .ends (.fault (.relocGap d)) := by
  simp only [fetchInstr, hClocks, h, Bool.false_eq_true, if_false]

theorem fetchInstr_violation {kind : FetchErrorKind} {d : Option UbusFetch} (hKind : kind ≠ .relocGap)
    (h : coreFetch s = .ok (.cancelled kind d)) :
    fetchInstr s = .ends (takeException (fetchErrorOf kind).number (fetchErrorOf kind).srr1
      { s with
        out := fetchOutput (.cancelled kind d) s.out
        pending := s.pending ++ issuedAccesses (.cancelled kind d)
        ctr := s.ctr + 1 }) := by
  cases kind with
  | relocGap => exact absurd rfl hKind
  | guardedStorage | protectedStorage => simp only [fetchInstr, hClocks, h, Bool.false_eq_true, if_false]

end Fetched

/-- The state in which the core takes the exception of a violation: its fetch is recorded. -/
def afterViolation (kind : FetchErrorKind) (d : Option UbusFetch) (s : State) : State :=
  { s with
    out := fetchOutput (.cancelled kind d) Output.none
    pending := s.pending ++ issuedAccesses (.cancelled kind d)
    ctr := s.ctr + 1 }

section Cycle

variable {s : State} (hInputs : s.inputs = []) (hClocks : s.clocksOff = false)
include hInputs hClocks

theorem step_core_refused {r : Refusal} (h : coreFetch s = .error r) : step s = .refused r :=
  (step_core hInputs hClocks).trans (congrArg runFetched (fetchInstr_refused (s := freshOutput s) hClocks h))

theorem step_core_gap {d : Option UbusFetch} (h : coreFetch s = .ok (.cancelled .relocGap d)) :
    step s = .fault (.relocGap d) :=
  (step_core hInputs hClocks).trans (congrArg runFetched (fetchInstr_gap (s := freshOutput s) hClocks h))

/-- A core whose fetch is a violation takes the IMPU's exception. -/
theorem step_core_violation {kind : FetchErrorKind} {d : Option UbusFetch} (hKind : kind ≠ .relocGap)
    (h : coreFetch s = .ok (.cancelled kind d)) :
    step s = takeException (fetchErrorOf kind).number (fetchErrorOf kind).srr1 (afterViolation kind d s) :=
  (step_core hInputs hClocks).trans (congrArg runFetched (fetchInstr_violation (s := freshOutput s) hClocks hKind h))

end Cycle

/-! #### Running the instruction that answers -/

/-- Settles O21: the step is the core's cycle, whose fetch is answered by the instruction. -/
theorem stepRunsTheDecodedInstr : Obligations.StepRunsTheDecodedInstr := by
  unfold Obligations.StepRunsTheDecodedInstr
  intro s u bytes i rest hInputs hClocks hFetch hDp hBytes hDecode
  rw [step_core hInputs hClocks]
  exact runFetched_forwarded (s := freshOutput s) hClocks hFetch hDp hBytes hDecode

/-- The access of a core that runs plainly goes out at the pc. -/
theorem coreFetch_of_runsPlainly {s : State} (h : s.runsPlainly) :
    coreFetch s = .ok (.forwarded
      { addr := s.core.pc, burst := fieldBe s.spr.bbcmcr, sc := s.core.sc, pt := s.core.pt, dp := false,
        cancelled := false }) := by
  obtain ⟨-, -, hStale, hIr, hEtre, hBig, hDp⟩ := h
  rw [coreFetch_of_verdict hStale hBig hDp (by rw [hIr, impuCheck_msrIr_off]), relocate_of_etre_off hEtre]
  exact congrArg (Except.ok ∘ FetchOutcome.forwarded) (ubusAccess_of_not_dp hDp _ _)

/-- Settles O22: the fetch is forwarded at the pc, where the instruction's bytes lie. -/
theorem stepRunsTheInstrAtPc : Obligations.StepRunsTheInstrAtPc := by
  unfold Obligations.StepRunsTheInstrAtPc
  intro s b0 b1 b2 b3 i hPlain hBytes hDecode
  have hFetch := coreFetch_of_runsPlainly hPlain
  obtain ⟨hInputs, hClocks, -, -, -, hBig, -⟩ := hPlain
  refine stepRunsTheDecodedInstr s _ _ i [] hInputs hClocks hFetch rfl hBytes ?_
  rw [hBig]
  simp only [instructionBytes, Bool.false_eq_true, if_false, decodeBytes, hDecode]

/-- Where the core runs plainly, a word is placed at the pc, most significant byte first, and nothing else changes. -/
theorem withFetchWord_of_runsPlainly {s : State} (h : s.runsPlainly) (w : Word) :
    s.withFetchWord 32 w.toNat = { s with mem := writeBytesFrom s.mem s.core.pc 0 (bigEndianBytes w) } := by
  have hFetch := coreFetch_of_runsPlainly h
  obtain ⟨hInputs, hClocks, -, -, -, hBig, -⟩ := h
  have hReady : readyForCycle s = s := by
    rw [readyForCycle, ← hInputs, ← hClocks]
  have hAnswer : answerAddr s = some s.core.pc := by
    simp only [answerAddr, hFetch, Bool.false_eq_true, if_false]
  have hWord : BitVec.ofNat 32 (w.toNat % 2 ^ 32) = w := by
    rw [Nat.mod_eq_of_lt w.isLt, BitVec.ofNat_toNat, BitVec.setWidth_eq]
  rw [State.withFetchWord, hWord, placeInstr, hReady, hAnswer]
  simp only [storeAnswer, hBig, instructionBytes, Bool.false_eq_true, if_false]

/-- Settles O23: the placed bytes lie at the pc, so the instruction at the pc is the placed word's. -/
theorem placedWordIsTheNextInstr : Obligations.PlacedWordIsTheNextInstr := by
  unfold Obligations.PlacedWordIsTheNextInstr
  intro s w i hPlain hDecode
  rw [withFetchWord_of_runsPlainly hPlain]
  refine stepRunsTheInstrAtPc { s with mem := writeBytesFrom s.mem s.core.pc 0 (bigEndianBytes w) } _ _ _ _ i hPlain
    (readBytes_writeBytesFrom ..) ?_
  rw [bigEndianWord_bigEndianBytes, hDecode]

/-! #### A fetch that is cancelled -/

/-- Settles O42: an allowed fetch of a gap is cancelled with reloc_gap, which ends the run. -/
theorem coreFetchBetweenEntriesFaults : Obligations.CoreFetchBetweenEntriesFaults := by
  unfold Obligations.CoreFetchBetweenEntriesFaults
  intro s hInputs hClocks hStale hBig hDp hAllowed hGap
  have hFetch := coreFetch_of_verdict hStale hBig hDp hAllowed
  rw [hGap] at hFetch
  rw [step_core_gap hInputs hClocks hFetch, deliveredAccess, ubusAccess_of_not_dp hDp]
  rfl

/-- A verdict other than allowed is one of the two violations, and cancels the fetch with it. -/
theorem decideFetch_of_violation {v : Verdict} (hv : v ≠ .allowed) (f : SprFile) (q : FetchRequest) (r : Reloc) :
    ∃ kind, kind ≠ .relocGap ∧ (kind = .guardedStorage ↔ v = .guardedStorage) ∧
      (kind = .protectedStorage ↔ v = .protectedStorage) ∧
      decideFetch f q v r = .cancelled kind (deliveredAccess f q r) := by
  cases v with
  | allowed => exact absurd rfl hv
  | guardedStorage => exact ⟨.guardedStorage, by decide, by decide, by decide, rfl⟩
  | protectedStorage => exact ⟨.protectedStorage, by decide, by decide, by decide, rfl⟩

/-- R171: both violations are the IMPU's exception. -/
theorem fetchErrorOf_number {kind : FetchErrorKind} (h : kind ≠ .relocGap) : (fetchErrorOf kind).number = 0x13 := by
  cases kind with
  | relocGap => exact absurd rfl h
  | guardedStorage | protectedStorage => rfl

/-- R171: the IMPU's vector. -/
theorem vectorAddr_impu (msrIp : Bool) : vectorAddr msrIp 0x13 = if msrIp then 0xFFF01300 else 0x00001300 := by
  cases msrIp <;> decide

/-- R172: the four SRR1 bits the IMPU drives are those of the status. -/
theorem manualBit_srr1After (status : Word) (k : Nat) : ∀ a ∈ [1, 3, 4, 10],
    manualBit (srr1After (some status) k) a = manualBit status a := by
  have hMask : ∀ a ∈ [1, 3, 4, 10], manualBit (~~~ srr1Mask) a = false := by decide
  intro a ha
  rw [srr1After, manualBit_or, manualBit_and, hMask a ha, Bool.and_false, Bool.false_or]

/-- A core whose fetch is a violation enters the IMPU's exception, if the relocation lets it. -/
theorem step_of_violation {s : State} {v : Verdict} (hInputs : s.inputs = []) (hClocks : s.clocksOff = false)
    (hStale : s.stale = []) (hBig : s.core.mode.littleEndian = false) (hDp : s.core.dp = false)
    (hCheck : impuCheck s.spr s.core.pc s.core.mode.priv s.core.mode.msrIr = .ok v) (hv : v ≠ .allowed) :
    ∃ kind d, kind ≠ .relocGap ∧ (kind = .guardedStorage ↔ v = .guardedStorage) ∧
      (kind = .protectedStorage ↔ v = .protectedStorage) ∧
      step s = takeException 0x13 (fetchErrorOf kind).srr1 (afterViolation kind d s) := by
  have hFetch := coreFetch_of_verdict hStale hBig hDp hCheck
  obtain ⟨kind, hKind, hGuarded, hProtected, hDecide⟩ :=
    decideFetch_of_violation hv s.spr (coreRequest s.core) (relocate s.spr s.core.pc)
  rw [hDecide] at hFetch
  have hStep := step_core_violation hInputs hClocks hKind hFetch
  rw [fetchErrorOf_number hKind] at hStep
  exact ⟨kind, _, hKind, hGuarded, hProtected, hStep⟩

/-- Settles O18: the user's exception and the IMPU's are each refused with ETRE = 1 and MSR[IP] = 0. -/
theorem exceptionNeedsIpWithRelocation : Obligations.ExceptionNeedsIpWithRelocation := by
  unfold Obligations.ExceptionNeedsIpWithRelocation
  constructor
  · intro i s hi hUser hClocks hEtre hIp
    rw [exec_user hi hUser hClocks]
    exact takeException_refused (s := { s with out := { s.out with userSprFault := true } }) hEtre hIp _ _
  · intro s v hInputs hClocks hStale hBig hDp hEtre hIp hCheck hv
    obtain ⟨kind, d, -, -, -, hStep⟩ := step_of_violation hInputs hClocks hStale hBig hDp hCheck hv
    exact hStep.trans (takeException_refused (s := afterViolation kind d s) hEtre hIp _ _)

/-- Settles O36: the core takes the IMPU's exception with the violation's status. -/
theorem coreTakesTheImpuException : Obligations.CoreTakesTheImpuException := by
  unfold Obligations.CoreTakesTheImpuException
  intro s v hInputs hClocks hStale hBig hDp hTaken hCheck hv
  obtain ⟨kind, d, hKind, hGuarded, hProtected, hStep⟩ := step_of_violation hInputs hClocks hStale hBig hDp hCheck hv
  obtain ⟨w, hStatus, h1, h10, h3, h4, -⟩ := fetchErrorOf_srr1 hKind
  rw [takeException_taken (s := afterViolation kind d s) hTaken, hStatus] at hStep
  have hBits := manualBit_srr1After w (s.ctr + 1)
  refine ⟨_, hStep, vectorAddr_impu _, ?_, ?_, ?_, ?_, rfl, rfl, fun _ => rfl, fun _ => rfl, fun hEtre => ?_⟩
  · exact (hBits 1 (by decide)).trans h1
  · exact (hBits 10 (by decide)).trans h10
  · exact (hBits 3 (by decide)).trans (h3.trans (decide_eq_decide.mpr hGuarded))
  · exact (hBits 4 (by decide)).trans (h4.trans (decide_eq_decide.mpr hProtected))
  · have hIp : s.core.mode.msrIp = true := hTaken.resolve_left (by rw [hEtre]; decide)
    show relocate s.spr (vectorAddr s.core.mode.msrIp 0x13) = _
    rw [hIp, vectorAddr_impu, if_pos rfl, relocate_of_entry hEtre (by decide) (by decide)]
    cases fieldOerc s.spr.bbcmcr <;> rfl

/-! #### What a core's step puts on the U-bus -/

/-- An instruction leaves the access of its own fetch as it is. -/
theorem exec_next_ubus {i : Instr} {s t : State} (h : exec i s = .next t) : t.out.ubus = s.out.ubus := by
  obtain ⟨-, ⟨-, n, r, v, -, rfl⟩ | ⟨-, n, r, rfl⟩ | ⟨-, hFault⟩⟩ := exec_next h
  · rfl
  · rfl
  · rw [takeException_next_out hFault]

/-- The access of a core's step that goes on is the one its fetch came to, by a verdict and the relocation. -/
theorem exists_verdict_of_core_ubus {s t : State} {u : UbusFetch} (hInputs : s.inputs = []) (h : step s = .next t)
    (hu : t.out.ubus = some u) :
    ∃ v, requestVerdict (fetchView s) s.ctr (coreRequest s.core) = .ok v ∧
      (fetchOutput (decideFetch (fetchView s) (coreRequest s.core) v
        (requestReloc (fetchView s) s.ctr (coreRequest s.core))) Output.none).ubus = some u := by
  have hCycle : ∃ o, coreFetch s = .ok o ∧ (fetchOutput o Output.none).ubus = some u := by
    obtain ⟨e, rest, he, -⟩ | ⟨rest, he, -⟩ | ⟨-, -, hRun⟩ | ⟨-, -, rfl⟩ := step_next h
    · exact absurd (hInputs.symm.trans he) (List.cons_ne_nil _ _).symm
    · exact absurd (hInputs.symm.trans he) (List.cons_ne_nil _ _).symm
    · obtain ⟨-, ⟨u', i, hFetch, -, hExec⟩ | ⟨kind, d, -, hFetch, hTake⟩⟩ := runFetched_next hRun
      · rw [exec_next_ubus hExec] at hu
        exact ⟨_, hFetch, hu⟩
      · rw [takeException_next_out hTake] at hu
        exact ⟨_, hFetch, hu⟩
    · cases hu
  obtain ⟨o, hFetch, hOut⟩ := hCycle
  obtain ⟨-, v, hv, rfl⟩ := fetchAccess_ok hFetch
  exact ⟨v, hv, hOut⟩

/-- Settles O45: the access of an event and that of the core's fetch are each their request's. -/
theorem accessCarriesAttributesAndBurstRequest : Obligations.AccessCarriesAttributesAndBurstRequest := by
  unfold Obligations.AccessCarriesAttributesAndBurstRequest
  constructor
  · intro s t q u ⟨⟨rest, hInputs⟩, _, _⟩ hStep hu
    obtain ⟨-, v, -, rfl⟩ := step_fetch_next hInputs hStep
    exact attributes_of_ubus hu
  · intro s t u hInputs hStep hu
    obtain ⟨v, -, hOut⟩ := exists_verdict_of_core_ubus hInputs hStep hu
    exact attributes_of_ubus (q := coreRequest s.core) hOut

/-- Settles O59: an access that is not cancelled is that of an allowed and mapped request. -/
theorem forwardedCoreFetchWasAllowed : Obligations.ForwardedCoreFetchWasAllowed := by
  unfold Obligations.ForwardedCoreFetchWasAllowed
  intro s t u hInputs hDp hStep hu hForwarded
  obtain ⟨v, hv, hOut⟩ := exists_verdict_of_core_ubus hInputs hStep hu
  rw [requestVerdict_of_not_dp hDp] at hv
  rw [requestReloc_of_not_dp hDp] at hOut
  obtain ⟨rfl, ⟨a, b, hMapped⟩, rfl⟩ | rfl := ubus_decideFetch hOut
  · refine ⟨hv, b, ?_⟩
    rw [hMapped]
    exact hMapped
  · cases hForwarded

/-! #### Little-endian operation -/

/-- Settles O60: the refusals of R46 in event and cycle, and otherwise the fetch of big-endian operation. -/
theorem littleEndianFetchIsRefusedOrGoesOn : Obligations.LittleEndianFetchIsRefusedOrGoesOn := by
  unfold Obligations.LittleEndianFetchIsRefusedOrGoesOn
  constructor
  · intro s q rest hInputs hClocks hLittle
    have hRefused (h : fetchAccess s.spr true s.ctr q = .error .littleEndian) : step s = .refused .littleEndian :=
      step_fetch_refused hInputs hClocks (hLittle ▸ h)
    refine ⟨fun hBe => hRefused (fetchAccess_littleEndian_of_be hBe), fun a inTable hDp hReloc => ⟨fun hNamed => ?_, ?_⟩⟩
    · exact hRefused (fetchAccess_littleEndian_of_internal hDp hReloc (isInternal_of_named hReloc hNamed))
    · intro v hBe hv
      cases hInternal : isInternal a with
      | true => exact .inl ⟨rfl, hRefused (fetchAccess_littleEndian_of_internal hDp hReloc hInternal)⟩
      | false =>
        have hFetch : fetchAccess s.spr true s.ctr q = .ok (decideFetch s.spr q v (.mapped a inTable)) := by
          rw [fetchAccess_littleEndian_of_external hDp hReloc hBe hInternal, fetchAccess_of_verdict hDp hv, hReloc]
        refine .inr ⟨rfl, _, step_fetch_ok hInputs hClocks (hLittle ▸ hFetch), ?_, ?_⟩
        · exact (error_eq_none_iff_of_mapped ..).symm
        · rintro rfl
          refine congrArg some ((ubusAccess_of_not_dp hDp ..).trans ?_)
          rw [hBe]
          rfl
  · intro s hInputs hClocks hLittle
    have hRefused (h : fetchAccess (fetchView s) true s.ctr (coreRequest s.core) = .error .littleEndian) :
        step s = .refused .littleEndian := step_core_refused hInputs hClocks (by rw [coreFetch, hLittle, h])
    refine ⟨fun hBe => hRefused (fetchAccess_littleEndian_of_be hBe), fun a inTable hDp hReloc hNamed => ?_⟩
    exact hRefused (fetchAccess_littleEndian_of_internal (q := coreRequest s.core) hDp hReloc (isInternal_of_named hReloc hNamed))

end Sys2Proof.Machine

/-! ### Reset, standby and a change of memory

What a reset keeps, where the core goes after it (70_reset_and_hazards.md section 1), and the steps of the events that change one
part of the state (40_modes_of_operation.md section 6, 20_memory.md section 1). -/

namespace Sys2Proof.Machine

/-! #### Reset -/

/-- R14, R19: a reset leaves every register but MI_GRA and BBCMCR. -/
theorem resetModule_get_of_ne {n : SprName} (hGra : n ≠ .miGra) (hConfig : n ≠ .bbcmcr) (id19 msrIp : Bool) (s : State) :
    (resetModule id19 msrIp s).spr.get n = s.spr.get n := by
  cases n with
  | miGra => exact absurd rfl hGra
  | bbcmcr => exact absurd rfl hConfig
  | miRba0 | miRba1 | miRba2 | miRba3 | miRa0 | miRa1 | miRa2 | miRa3 => rfl

theorem regionBaseSpr_ne_bbcmcr : ∀ x : Fin 4, regionBaseSpr x ≠ .bbcmcr := by decide

theorem regionAttrSpr_ne_bbcmcr : ∀ x : Fin 4, regionAttrSpr x ≠ .bbcmcr := by decide

theorem resetModule_rba (id19 msrIp : Bool) (s : State) (x : Fin 4) : (resetModule id19 msrIp s).spr.rba x = s.spr.rba x := by
  rw [SprFile.rba_eq_get, resetModule_get_of_ne (miGra_ne_regionBaseSpr x).symm (regionBaseSpr_ne_bbcmcr x), SprFile.rba_eq_get]

theorem resetModule_ra (id19 msrIp : Bool) (s : State) (x : Fin 4) : (resetModule id19 msrIp s).spr.ra x = s.spr.ra x := by
  rw [SprFile.ra_eq_get, resetModule_get_of_ne (miGra_ne_regionAttrSpr x).symm (regionAttrSpr_ne_bbcmcr x), SprFile.ra_eq_get]

/-- Settles O49: the step is the reset of the module. -/
theorem resetKeepsRegionsAndDropsPending : Obligations.ResetKeepsRegionsAndDropsPending := by
  unfold Obligations.ResetKeepsRegionsAndDropsPending
  intro s id19 msrIp rest hInputs
  exact ⟨_, step_reset hInputs, fun x => ⟨resetModule_rba .., resetModule_ra ..⟩, SprFile.get_zero, rfl, rfl, rfl, fun _ => rfl⟩

/-- Where the fetch at the system reset vector goes after a reset. -/
theorem relocate_resetVector (id19 msrIp : Bool) (s : State) :
    ∃ b, relocate (resetModule id19 msrIp s).spr (vectorAddr msrIp 1) =
      .mapped (if msrIp then (if id19 then Config.intMemBase + 0x0008 else 0xFFF00100) else 0x00000100) b := by
  obtain ⟨-, hEtre, -⟩ := resetModule_bbcmcr_fields id19 msrIp s
  cases msrIp with
  | false => exact ⟨false, relocate_of_not_window (by decide)⟩
  | true =>
    cases id19 with
    | false => exact ⟨false, relocate_of_etre_off hEtre _⟩
    | true =>
      have hEntry : vectorAddr true 1 = 0xFFF00100 := by decide
      rw [hEntry]
      exact ⟨true, (resetVectorIgnoresOerc _ hEtre).1⟩

/-- Settles O50: the fetch is not checked, goes where the reset vector goes, and BE is 0. -/
theorem firstFetchAfterReset : Obligations.FirstFetchAfterReset := by
  unfold Obligations.FirstFetchAfterReset
  intro s id19 msrIp rest hInputs hDp
  refine ⟨_, step_reset hInputs, ?_⟩
  generalize hFresh : freshOutput { s with inputs := rest } = s'
  have hCore : s'.core = s.core := hFresh ▸ rfl
  obtain ⟨b, hReloc⟩ := relocate_resetVector id19 msrIp s'
  obtain ⟨hBe, -, -⟩ := resetModule_bbcmcr_fields id19 msrIp s'
  have hDp' : (resetModule id19 msrIp s').core.dp = false := by
    rw [resetModule_core, resetCore_dp, hCore, hDp]
  refine (coreFetch_of_verdict rfl rfl hDp' (impuCheck_msrIr_off ..)).trans ?_
  rw [resetModule_core, resetCore_pc, hReloc]
  refine congrArg (Except.ok ∘ FetchOutcome.forwarded) ((ubusAccess_of_not_dp hDp' ..).trans ?_)
  rw [hBe]
  simp only [ubusAccess, coreRequest, resetCore_sc, resetCore_pt, hCore]

/-! #### A region that is turned on again -/

/-- A supervisor's MtSpr to one of the ten registers writes it. -/
theorem step_mtSpr_supervisor {s : State} {n : SprName} {v : Word} {rest : List Event} (hClocks : s.clocksOff = false)
    (hInputs : s.inputs = .mtSpr (sprNumber n) v .supervisor :: rest) :
    step s = .next (storeSpr n v (freshOutput { s with inputs := rest })) := by
  refine step_event hInputs (congrArg some ?_)
  rw [handleMtSpr, sprOfNumber_sprNumber]
  simp only [accessSpr_supervisor (s := freshOutput { s with inputs := rest }) hClocks, accessEvent]

theorem rba_set_miGra (f : SprFile) (v : Word) (x : Fin 4) : (f.set .miGra v).rba x = f.rba x := by
  rw [SprFile.rba_eq_get, SprFile.get_set_ne _ _ (miGra_ne_regionBaseSpr x).symm, SprFile.rba_eq_get]

theorem ra_set_miGra (f : SprFile) (v : Word) (x : Fin 4) : (f.set .miGra v).ra x = f.ra x := by
  rw [SprFile.ra_eq_get, SprFile.get_set_ne _ _ (miGra_ne_regionAttrSpr x).symm, SprFile.ra_eq_get]

/-- A write to MI_GRA turns on the regions whose enable is written 1. -/
theorem regionOn_set_miGra (f : SprFile) (v : Word) (x : Fin 4) :
    regionOn (f.set .miGra (v &&& namedMask .miGra)) x = manualBit v x.val :=
  manualBit_and_of_covered (namedMask_miGra_enables x) v

/-- Settles O51: the reset turns every region off, the write turns x on, and neither changes the two registers of x. -/
theorem regionSurvivesReset : Obligations.RegionSurvivesReset := by
  unfold Obligations.RegionSurvivesReset
  intro s id19 msrIp v rest x hInputs hOn
  refine ⟨_, _, step_reset hInputs, regionOn_of_miGra_zero rfl x, step_mtSpr_supervisor (n := .miGra) rfl rfl, ?_⟩
  rw [storeSpr_spr, regionOn_set_miGra, regionBase, rba_set_miGra, ra_set_miGra, freshOutput_spr, resetModule_rba,
    resetModule_ra, regionBase]
  exact ⟨hOn, rfl, rfl, rfl⟩

/-! #### Standby -/

theorem step_idle {s : State} (hInputs : s.inputs = []) (hClocks : s.clocksOff = true) : step s = .next (freshOutput s) := by
  unfold step
  rw [hInputs]
  exact if_pos hClocks

/-- Settles O52: each of these steps changes at most the clocks, the inputs and the outputs. -/
theorem standbyIssuesNothingAndKeepsRegisters : Obligations.StandbyIssuesNothingAndKeepsRegisters := by
  unfold Obligations.StandbyIssuesNothingAndKeepsRegisters
  constructor
  · intro s rest hInputs
    constructor
    · intro hIdle
      refine ⟨_, step_event hInputs (congrArg some (if_pos (List.isEmpty_iff.mpr hIdle))), rfl, rfl, rfl, rfl, hIdle, rfl,
        fun _ => rfl⟩
    · intro hPending
      exact step_event hInputs (congrArg some (if_neg (mt List.isEmpty_iff.mp hPending)))
  · intro s hClocks
    refine ⟨fun hInputs => step_idle hInputs hClocks, fun q rest hInputs => ?_, fun rest hInputs => ?_⟩
    · rw [step_fetch hInputs, handleFetch]
      exact if_pos hClocks
    · exact ⟨_, step_event hInputs rfl, rfl, rfl, rfl, rfl, rfl, fun _ => rfl⟩

/-! #### The state after power-on, and memory -/

/-- Settles O53: the values stand in the definition of State.reset. -/
theorem resetStateHoldsTheGivenValues : Obligations.ResetStateHoldsTheGivenValues :=
  ⟨rfl, rfl, rfl, rfl, rfl, rfl, rfl⟩

/-- Settles O54: the event is one write to memory. -/
theorem memoryByteChangesAlone : Obligations.MemoryByteChangesAlone := by
  unfold Obligations.MemoryByteChangesAlone
  intro s a b rest hInputs
  exact ⟨_, step_event hInputs rfl, Memory.read_write_self .., fun k hk => Memory.read_write_ne _ _ hk, rfl, rfl⟩

end Sys2Proof.Machine

/-! ### What keeps the registers

Which events, core's cycles and steps can change a register of the module (10_state.md section 2, 60_exceptions.md section 6). -/

namespace Sys2Proof.Machine

/-- Taking an exception leaves the module's registers. -/
theorem takeException_next_registers {i : BitVec 5} {status : Option Word} {s t : State}
    (h : takeException i status s = .next t) : t.spr = s.spr ∧ t.reservedOnes = s.reservedOnes := by
  rw [takeException_next h]
  exact ⟨rfl, rfl⟩

/-- A core's cycle that goes on leaves the module's registers, unless a supervisor's mtspr was fetched. -/
theorem runFetched_next_registers {s t : State} (h : runFetched (fetchInstr s) = .next t) :
    (t.spr = s.spr ∧ t.reservedOnes = s.reservedOnes) ∨
    (s.core.mode.priv = .supervisor ∧ s.clocksOff = false ∧ ∃ n r u, fetchInstr s = .run (Instr.mtspr n r) u) := by
  cases hf : fetchInstr s with
  | run i u =>
    rw [hf] at h
    obtain ⟨hc, _, -, -, rfl⟩ := fetchInstr_run hf
    obtain ⟨-, ⟨hp, n, r, v, rfl, -⟩ | ⟨-, n, r, rfl⟩ | ⟨-, hFault⟩⟩ := exec_next (show exec i _ = .next t from h)
    · exact .inr ⟨hp, hc, n, r, _, rfl⟩
    · exact .inl ⟨rfl, rfl⟩
    · obtain ⟨hSpr, hOnes⟩ := takeException_next_registers hFault
      exact .inl ⟨hSpr, hOnes⟩
  | ends r =>
    rw [hf] at h
    cases h
    obtain ⟨-, kind, d, -, -, hTake⟩ := fetchInstr_ends_next hf
    obtain ⟨hSpr, hOnes⟩ := takeException_next_registers hTake
    exact .inl ⟨hSpr, hOnes⟩

/-- Of the events only a supervisor's MtSpr and a Reset can change one of the ten registers. -/
theorem handleEvent_next_spr {e : Event} {s t : State} (h : handleEvent e s = some (.next t)) :
    t.spr = s.spr ∨ (∃ n v, e = .mtSpr n v .supervisor ∧ (sprOfNumber n).isSome = true) ∨
      ∃ id19 msrIp, e = .reset id19 msrIp := by
  cases e with
  | fetch q =>
    obtain ⟨-, o, -, rfl⟩ := handleFetch_next (Option.some.inj h)
    exact .inl rfl
  | mtSpr n v priv =>
    obtain ⟨r, hn, -, ⟨rfl, -⟩ | ⟨-, rfl⟩⟩ := handleMtSpr_next (Option.some.inj h)
    · exact .inr (.inl ⟨n, v, rfl, Option.isSome_of_eq_some hn⟩)
    · exact .inl rfl
  | mfSpr n priv =>
    obtain ⟨r, -, -, ⟨-, rfl⟩ | ⟨-, rfl⟩⟩ := handleMfSpr_next (Option.some.inj h) <;> exact .inl rfl
  | reset id19 msrIp => exact .inr (.inr ⟨id19, msrIp, rfl⟩)
  | standbyEnter | ubusComplete k =>
    simp only [handleEvent] at h
    split at h <;> cases h
    exact .inl rfl
  | standbyExit | coreChange c | coreDiscard | memWrite a b =>
    cases h
    exact .inl rfl
  | coreCycle => cases h

/-- If a step goes on, it handled the next event, or was a core's cycle, with no event left or by an event, or it idled. -/
theorem step_next_cases {s t : State} (h : step s = .next t) :
    (∃ e rest, s.inputs = e :: rest ∧ handleEvent e (freshOutput { s with inputs := rest }) = some (.next t)) ∨
    (∃ rest, (s.inputs = [] ∧ rest = [] ∨ s.inputs = .coreCycle :: rest) ∧
      runFetched (fetchInstr (freshOutput { s with inputs := rest })) = .next t) ∨
    t = freshOutput s := by
  obtain hEvent | ⟨rest, hInputs, hRun⟩ | ⟨hInputs, -, hRun⟩ | ⟨-, -, ht⟩ := step_next h
  · exact .inl hEvent
  · exact .inr (.inl ⟨rest, .inr hInputs, hRun⟩)
  · refine .inr (.inl ⟨[], .inl ⟨hInputs, rfl⟩, ?_⟩)
    rw [← hInputs]
    exact hRun
  · exact .inr (.inr ht)

/-- Settles O57: such a step is a core's cycle or idles, and only a supervisor's cycle writes a register. -/
theorem userCoreCannotChangeRegisters : Obligations.UserCoreCannotChangeRegisters := by
  unfold Obligations.UserCoreCannotChangeRegisters
  intro s t hInputs hUser h
  obtain ⟨e, rest, he, hEvent⟩ | ⟨rest, -, hRun⟩ | rfl := step_next_cases h
  · obtain hNil | ⟨rest', hCore⟩ := hInputs
    · rw [hNil] at he
      cases he
    · rw [hCore] at he
      cases he
      cases hEvent
  · exact (runFetched_next_registers hRun).resolve_right fun hSup => supervisor_ne_user hSup.1 hUser
  · exact ⟨rfl, rfl⟩

/-- Settles O58: an event, a core's cycle and a step that idles each keep the registers but in the causes listed. -/
theorem onlySupervisorWritesAndResetChangeRegisters : Obligations.OnlySupervisorWritesAndResetChangeRegisters := by
  unfold Obligations.OnlySupervisorWritesAndResetChangeRegisters
  intro s t h hNe
  obtain ⟨e, rest, he, hEvent⟩ | ⟨rest, he, hRun⟩ | rfl := step_next_cases h
  · obtain hSame | ⟨n, v, rfl, hn⟩ | ⟨id19, msrIp, rfl⟩ := handleEvent_next_spr hEvent
    · exact absurd hSame hNe
    · exact .inl ⟨n, v, rest, he, hn⟩
    · exact .inr (.inl ⟨id19, msrIp, rest, he⟩)
  · obtain ⟨hSame, -⟩ | ⟨hSup, hClocks, n, r, u, hFetched⟩ := runFetched_next_registers hRun
    · exact absurd hSame hNe
    · exact .inr (.inr ⟨rest, n, r, u, he, hSup, hClocks, hFetched⟩)
  · exact absurd rfl hNe

end Sys2Proof.Machine

/-! ### The invariant

Each part of the state the invariant reads is changed by few operations; one lemma for each of them, then for an event, a core's
cycle and a step (10_state.md section 7, 40_modes_of_operation.md sections 2, 5 and 6). -/

namespace Sys2Proof.Machine

namespace State.Inv

variable {s : State} (h : s.Inv)
include h

/-- The invariant reads nothing of the core's side, the inputs, the outputs and the draw counter. -/
theorem update (core : CoreSide) (inputs : List Event) (out : Output) (ctr : Nat) :
    { s with core := core, inputs := inputs, out := out, ctr := ctr }.Inv where
  memCanonical := h.memCanonical
  sprCanonical := h.sprCanonical
  staleCanonical := h.staleCanonical
  reservedCanonical := h.reservedCanonical
  standbyIdle := h.standbyIdle
  pendingWellFormed := h.pendingWellFormed

theorem storeSpr (n : SprName) (v : Word) : (storeSpr n v s).Inv where
  memCanonical := h.memCanonical
  sprCanonical := SprFile.canonical_set h.sprCanonical n v
  staleCanonical := List.forall_mem_cons.mpr ⟨h.sprCanonical, h.staleCanonical⟩
  reservedCanonical := SprFile.reservedOnly_set h.reservedCanonical n v
  standbyIdle := h.standbyIdle
  pendingWellFormed := h.pendingWellFormed

theorem takeException {i : BitVec 5} {status : Option Word} {t : State} (ht : takeException i status s = .next t) :
    t.Inv := by
  rw [takeException_next ht]
  exact h.update ..

/-- An instruction that goes on keeps the invariant. -/
theorem exec {i : Instr} {t : State} (ht : exec i s = .next t) : t.Inv := by
  obtain ⟨-, ⟨-, n, r, v, -, rfl⟩ | ⟨-, n, r, rfl⟩ | ⟨-, hFault⟩⟩ := exec_next ht
  · exact (h.storeSpr n v).update ..
  · exact h.update ..
  · exact (h.update ..).takeException hFault

/-- With the clocks on, what a fetch leaves pending is what the module may have issued. -/
theorem issue {f : SprFile} {le : Bool} {k : Nat} {q : FetchRequest} {o : FetchOutcome} (hClocks : s.clocksOff = false)
    (ho : fetchAccess f le k q = .ok o) : { s with pending := s.pending ++ issuedAccesses o }.Inv where
  memCanonical := h.memCanonical
  sprCanonical := h.sprCanonical
  staleCanonical := h.staleCanonical
  reservedCanonical := h.reservedCanonical
  standbyIdle hOff := absurd (hClocks.symm.trans hOff) Bool.false_ne_true
  pendingWellFormed := by
    obtain ⟨-, v, -, rfl⟩ := fetchAccess_ok ho
    exact List.forall_mem_append.mpr ⟨h.pendingWellFormed, issuedAccesses_wellFormed f q v _⟩

theorem resetModule (id19 msrIp : Bool) : (resetModule id19 msrIp s).Inv where
  memCanonical := h.memCanonical
  sprCanonical n := by
    by_cases hGra : n = .miGra
    · subst hGra
      exact BitVec.zero_and
    by_cases hConfig : n = .bbcmcr
    · subst hConfig
      rw [SprFile.get, resetModule_bbcmcr]
      cases id19 <;> decide
    rw [resetModule_get_of_ne hGra hConfig]
    exact h.sprCanonical n
  staleCanonical := List.forall_mem_nil _
  reservedCanonical := SprFile.reservedOnly_zero
  standbyIdle _ := rfl
  pendingWellFormed := List.forall_mem_nil _

theorem memWrite (a : Word) (b : Byte) : { s with mem := s.mem.write a.toNat b }.Inv :=
  { h with memCanonical := Memory.wf_write _ _ a.isLt h.memCanonical }

theorem discard : { s with stale := [] }.Inv :=
  { h with staleCanonical := List.forall_mem_nil _ }

theorem clocksOff (hIdle : s.pending = []) : { s with clocksOff := true }.Inv :=
  { h with standbyIdle := fun _ => hIdle }

theorem clocksOn : { s with clocksOff := false }.Inv :=
  { h with standbyIdle := fun hOff => absurd hOff Bool.false_ne_true }

theorem complete (k : Nat) : { s with pending := s.pending.eraseIdx k }.Inv :=
  { h with
    standbyIdle := fun hOff => by
      show s.pending.eraseIdx k = []
      rw [h.standbyIdle hOff, List.eraseIdx_nil]
    pendingWellFormed := fun u hu => h.pendingWellFormed u (List.mem_of_mem_eraseIdx hu) }

/-- An event that goes on keeps the invariant. -/
theorem handleEvent {e : Event} {t : State} (ht : handleEvent e s = some (.next t)) : t.Inv := by
  cases e with
  | fetch q =>
    obtain ⟨hc, o, ho, rfl⟩ := handleFetch_next (Option.some.inj ht)
    exact (h.issue hc ho).update ..
  | mtSpr n v priv =>
    obtain ⟨r, -, -, ⟨-, rfl⟩ | ⟨-, rfl⟩⟩ := handleMtSpr_next (Option.some.inj ht)
    · exact h.storeSpr r v
    · exact h.update ..
  | mfSpr n priv =>
    obtain ⟨r, -, -, ⟨-, rfl⟩ | ⟨-, rfl⟩⟩ := handleMfSpr_next (Option.some.inj ht) <;> exact h.update ..
  | reset id19 msrIp =>
    cases ht
    exact h.resetModule id19 msrIp
  | standbyEnter =>
    simp only [Machine.handleEvent] at ht
    split at ht <;> cases ht
    exact h.clocksOff (List.isEmpty_iff.mp ‹_›)
  | standbyExit =>
    cases ht
    exact h.clocksOn
  | coreCycle => cases ht
  | coreChange c =>
    cases ht
    exact h.update ..
  | coreDiscard =>
    cases ht
    exact h.discard
  | memWrite a b =>
    cases ht
    exact h.memWrite a b
  | ubusComplete k =>
    simp only [Machine.handleEvent] at ht
    split at ht <;> cases ht
    exact h.complete k

/-- A core's cycle that goes on keeps the invariant. -/
theorem runFetched {t : State} (ht : runFetched (fetchInstr s) = .next t) : t.Inv := by
  obtain ⟨hc, ⟨u, i, -, -, hExec⟩ | ⟨kind, d, -, hFetch, hTake⟩⟩ := runFetched_next ht
  · exact (h.update ..).exec hExec
  · exact ((h.issue hc hFetch).update ..).takeException hTake

end State.Inv

/-- Settles O55: the event or the core's cycle that the step is keeps the invariant, and so does a step that idles. -/
theorem stepKeepsTheInvariant : Obligations.StepKeepsTheInvariant := by
  unfold Obligations.StepKeepsTheInvariant
  intro s t h hStep
  obtain ⟨e, rest, -, hEvent⟩ | ⟨rest, -, hRun⟩ | rfl := step_next_cases hStep
  · exact (h.update ..).handleEvent hEvent
  · exact (h.update ..).runFetched hRun
  · exact h.update ..

/-- Settles O56: after reset memory is empty, every register is 0 and nothing is pending. -/
theorem resetStateMeetsTheInvariant : Obligations.ResetStateMeetsTheInvariant where
  memCanonical := rfl
  sprCanonical n := by cases n <;> rfl
  staleCanonical := List.forall_mem_nil _
  reservedCanonical := SprFile.reservedOnly_zero
  standbyIdle _ := rfl
  pendingWellFormed := List.forall_mem_nil _

end Sys2Proof.Machine
